-- ==== Sys2Proof/Word.lean ====
section
/-! DEFINITION. The word types of LEDMX: the 8-bit storage word, the 32-bit register word, the Bitmap
pair of rule R120 and the Frame of rule R140 (spec/40_bitmap.md, spec/41_frame.md). -/

namespace Sys2Proof

/-- One byte: a storage word of a row (rule R8, `W = 8`) or a byte of source memory (rule R64). -/
abbrev Byte := BitVec 8

/-- One word of the host's 32-bit register port (rules R14, R61). -/
abbrev Word := BitVec 32

/-- `TIME_W = 64` (rule R12): time values are naturals below `2^64`; a sum that reaches this bound is
refused (rule R337, U9 of spec/93_implementation_defined.md). -/
def timeLimit : Nat := 2 ^ 64

/-- A Bitmap (rule R120): the storage word and its valid width. -/
structure Bitmap where
  data : Byte
  nbits : Nat
deriving DecidableEq, Repr

/-- A Frame (rule R140): its rows, row 0 first. Its height is the length of the list. -/
abbrev Frame := List Bitmap

end Sys2Proof
end

