-- ==== Sys2Proof/Syntax.lean ====
section
/-! DEFINITION. The commands of LEDMX (rule R94, spec/30_encoding.md), one constructor of `Instr` per row of
spec/opcode_table.json, and the codes a command names: effects, precondition faults, rejection causes. -/

namespace Sys2Proof

/-- The two transition effects (rules R95, R181). -/
inductive Effect where
  /-- `EFFECT_NONE` (0): no interpolation. -/
  | none
  /-- `EFFECT_SLIDE` (1): one frame exits while the next enters. -/
  | slide
deriving DecidableEq, Repr

/-- The precondition faults (rules R30, R280). -/
inductive RangeFault where
  /-- `FAULT_Y_RANGE` (1): row coordinate `y ≥ ROWS`. -/
  | yRange
  /-- `FAULT_X_RANGE` (2): bit or column coordinate `x ≥ COLS`. -/
  | xRange
deriving DecidableEq, Repr

/-- The causes of a rejected command write (rule R288). -/
inductive RejectCause where
  /-- `REJ_BUSY` (1) -/
  | busy
  /-- `REJ_ILLEGAL_OPCODE` (2) -/
  | illegalOpcode
  /-- `REJ_RESERVED_NONZERO` (3) -/
  | reservedNonzero
  /-- `REJ_FAULTED` (4) -/
  | faulted
  /-- `REJ_INERT` (5) -/
  | inert
  /-- `REJ_NOT_ABORTABLE` (6) -/
  | notAbortable
deriving DecidableEq, Repr

/-- The fifteen commands (rule R94). Operand fields are unsigned numbers used at face value (rule R93);
`Instr.WellFormed` bounds them by their 8-bit fields. -/
inductive Instr where
  | clear
  | on (x y : Nat)
  | off (x y : Nat)
  | apply
  | setBrightness (level : Nat)
  | incBrightness (amount : Nat)
  | decBrightness (amount : Nat)
  | render
  | display
  | scroll
  | scrollSpeed
  | animate (effect : Effect)
  | animateFrames (effect : Effect)
  | release
  | abort
deriving DecidableEq, Repr

end Sys2Proof
end

