-- ==== Sys2Proof/WellFormed.lean ====
section
/-! DEFINITION. Which terms of `Instr` a command word can express (rules R91, R93): every numeric operand fits
its 8-bit field. -/

namespace Sys2Proof

/-- An operand fits field A or B of the command word (rule R91). -/
abbrev FitsField (v : Nat) : Prop := v < 256

/-- A command that the 32-bit word of rule R91 can express. -/
def Instr.wellFormed : Instr → Bool
  | .clear => true
  | .on x y => decide (FitsField x) && decide (FitsField y)
  | .off x y => decide (FitsField x) && decide (FitsField y)
  | .apply => true
  | .setBrightness level => decide (FitsField level)
  | .incBrightness amount => decide (FitsField amount)
  | .decBrightness amount => decide (FitsField amount)
  | .render => true
  | .display => true
  | .scroll => true
  | .scrollSpeed => true
  | .animate _ => true
  | .animateFrames _ => true
  | .release => true
  | .abort => true

/-- The proposition form of `Instr.wellFormed`. -/
abbrev Instr.WellFormed (i : Instr) : Prop := i.wellFormed = true

end Sys2Proof
end

