-- ==== Sys2Proof/Decode.lean ====
section
/-! DEFINITION. The command decoder, total on all `2^32` words and rejecting by name (rules R90 to R97), and after it
the encoder written from the same table (rules R91, R94). -/

namespace Sys2Proof

/-- The four operand formats (rule R92). -/
inductive Format where
  | n
  | a
  | xy
  | e
deriving DecidableEq, Repr

/-- The bits a format uses: line 4 of rule R96. -/
def Format.fieldMask : Format → Word
  | .n => 0x000000FF#32
  | .a => 0x0000FFFF#32
  | .xy => 0x00FFFFFF#32
  | .e => 0x000001FF#32

/-- `OPC = w[7:0]` (rule R91). -/
def opcField (w : Word) : Nat := (w.extractLsb' 0 8).toNat

/-- `A = w[15:8]` (rule R91). -/
def aField (w : Word) : Nat := (w.extractLsb' 8 8).toNat

/-- `B = w[23:16]` (rule R91). -/
def bField (w : Word) : Nat := (w.extractLsb' 16 8).toNat

/-- `effect = w[8]` (rules R93, R95). -/
def effectField (w : Word) : Effect := if w.getLsbD 8 then .slide else .none

/-- The opcode map of rule R94: the format and the command of each opcode, `none` for the illegal ones (rule R97). -/
def opcodeMap (w : Word) : Option (Format × Instr) :=
  match opcField w with
  | 0x01 => some (.n, .clear)
  | 0x02 => some (.xy, .on (aField w) (bField w))
  | 0x03 => some (.xy, .off (aField w) (bField w))
  | 0x04 => some (.n, .apply)
  | 0x05 => some (.a, .setBrightness (aField w))
  | 0x06 => some (.a, .incBrightness (aField w))
  | 0x07 => some (.a, .decBrightness (aField w))
  | 0x08 => some (.n, .render)
  | 0x09 => some (.n, .display)
  | 0x0A => some (.n, .scroll)
  | 0x0B => some (.n, .scrollSpeed)
  | 0x0C => some (.e, .animate (effectField w))
  | 0x0D => some (.e, .animateFrames (effectField w))
  | 0x0E => some (.n, .release)
  | 0x0F => some (.n, .abort)
  | _ => none

/-- Lines 3 and 4 of rule R96: the command a word stands for, or the cause of its rejection. -/
def decodeWord (w : Word) : Except RejectCause Instr :=
  match opcodeMap w with
  | none => .error .illegalOpcode
  | some (f, i) => if w &&& ~~~f.fieldMask ≠ 0 then .error .reservedNonzero else .ok i

/-- The decoder on an opcode-table word of `nbits` bits, bit 0 the least significant; a value that does not fit the one
32-bit command word (rules R90, R98) is no command. -/
def decodeTableWord (nbits w : Nat) : Option Instr :=
  let v := w % 2 ^ nbits
  if v < 2 ^ 32 then
    match decodeWord (BitVec.ofNat 32 v) with
    | .ok i => some i
    | .error _ => none
  else none

/-- The opcode number of a command (rule R94). -/
def Instr.opcode : Instr → Nat
  | .clear => 0x01
  | .on _ _ => 0x02
  | .off _ _ => 0x03
  | .apply => 0x04
  | .setBrightness _ => 0x05
  | .incBrightness _ => 0x06
  | .decBrightness _ => 0x07
  | .render => 0x08
  | .display => 0x09
  | .scroll => 0x0A
  | .scrollSpeed => 0x0B
  | .animate _ => 0x0C
  | .animateFrames _ => 0x0D
  | .release => 0x0E
  | .abort => 0x0F

/-- The effect operand as a number (rule R95). -/
def Effect.code : Effect → Nat
  | .none => 0
  | .slide => 1

/-- The A operand of a command: `x`, `level`, `amount` or `effect`; 0 where the format does not use it (rules R91, R92). -/
def Instr.operandA : Instr → Nat
  | .on x _ => x
  | .off x _ => x
  | .setBrightness level => level
  | .incBrightness amount => amount
  | .decBrightness amount => amount
  | .animate e => e.code
  | .animateFrames e => e.code
  | .clear => 0
  | .apply => 0
  | .render => 0
  | .display => 0
  | .scroll => 0
  | .scrollSpeed => 0
  | .release => 0
  | .abort => 0

/-- The B operand of a command: `y`; 0 where the format does not use it (rules R91, R92). -/
def Instr.operandB : Instr → Nat
  | .on _ y => y
  | .off _ y => y
  | .clear => 0
  | .apply => 0
  | .setBrightness _ => 0
  | .incBrightness _ => 0
  | .decBrightness _ => 0
  | .render => 0
  | .display => 0
  | .scroll => 0
  | .scrollSpeed => 0
  | .animate _ => 0
  | .animateFrames _ => 0
  | .release => 0
  | .abort => 0

/-- The command word `Z ++ B ++ A ++ OPC` of rule R91, with `Z = 0`. -/
def encode (i : Instr) : Word :=
  (0#8 ++ BitVec.ofNat 8 i.operandB ++ BitVec.ofNat 8 i.operandA ++ BitVec.ofNat 8 i.opcode : BitVec (8 + 8 + 8 + 8))

/-- One row of the table of rule R94: opcode, `match` and `mask`. -/
structure OpcodeRow where
  opc : Nat
  pattern : Word
  mask : Word
deriving DecidableEq, Repr

/-- The table of rule R94, `match` and `mask` as written there. -/
def opcodeTable : List OpcodeRow :=
  [⟨0x01, 0x00000001#32, 0xFFFFFFFF#32⟩, ⟨0x02, 0x00000002#32, 0xFF0000FF#32⟩, ⟨0x03, 0x00000003#32, 0xFF0000FF#32⟩,
   ⟨0x04, 0x00000004#32, 0xFFFFFFFF#32⟩, ⟨0x05, 0x00000005#32, 0xFFFF00FF#32⟩, ⟨0x06, 0x00000006#32, 0xFFFF00FF#32⟩,
   ⟨0x07, 0x00000007#32, 0xFFFF00FF#32⟩, ⟨0x08, 0x00000008#32, 0xFFFFFFFF#32⟩] ++
  [⟨0x09, 0x00000009#32, 0xFFFFFFFF#32⟩, ⟨0x0A, 0x0000000A#32, 0xFFFFFFFF#32⟩, ⟨0x0B, 0x0000000B#32, 0xFFFFFFFF#32⟩,
   ⟨0x0C, 0x0000000C#32, 0xFFFFFEFF#32⟩, ⟨0x0D, 0x0000000D#32, 0xFFFFFEFF#32⟩, ⟨0x0E, 0x0000000E#32, 0xFFFFFFFF#32⟩,
   ⟨0x0F, 0x0000000F#32, 0xFFFFFFFF#32⟩]

end Sys2Proof
end

