-- ==== Sys2Proof/Config.lean ====
section
/-! DEFINITION. What one instance of LEDMX fixes (rules R7, R9, R10, R11, R13 of spec/00_scope.md). The OPEN parameters are
fields of `Config`; a claim is stated for every well-formed `Config`. There is no free value: the spec leaves no result of a
command open. -/

namespace Sys2Proof

/-- `BR_MAX` (rule R9). -/
def brMax : Nat := 10

/-- `BR_MIN` (rule R9). -/
def brMin : Nat := 0

/-- `BR_DEFAULT` (rule R9). -/
def brDefault : Nat := 5

/-- The parameters of an instance. `glyphs` is the function `Lookup` of rule R13 as plain data: the rows of each listed byte,
blank for an unlisted one; every pure total function from bytes to frames is such a table (assumption 3). -/
structure Config where
  /-- `COLS` (rule R7), OPEN in 1..8. -/
  cols : Nat
  /-- `ROWS` (rule R7), OPEN in 1..255. -/
  rows : Nat
  /-- `K_DWELL` (rule R10), OPEN. -/
  kDwell : Nat
  /-- `REFRESH_TICK` (rule R10), OPEN, at least 1. -/
  refreshTick : Nat
  /-- `SCROLL_UNIT` (rule R10), OPEN, at least 1. -/
  scrollUnit : Nat
  /-- `ROW_ACTIVE_HIGH` (rule R11), OPEN. -/
  rowActiveHigh : Bool
  /-- `COL_ACTIVE_HIGH` (rule R11), OPEN. -/
  colActiveHigh : Bool
  /-- `Lookup` (rule R13), OPEN. -/
  glyphs : List (Nat × List Byte)
deriving DecidableEq, Repr

/-- A well-formed configuration (rules R7, R10, R324 item 3). -/
abbrev Config.WellFormed (c : Config) : Prop :=
  1 ≤ c.cols ∧ c.cols ≤ 8 ∧ 1 ≤ c.rows ∧ c.rows ≤ 255 ∧ 1 ≤ c.refreshTick ∧ 1 ≤ c.scrollUnit ∧ c.kDwell < c.refreshTick

/-- The instance that `State.reset` is an instance of: the one of spec/95_test_vectors.md. DESIGN CHOICE (assumption 2): the
spec leaves every one of these parameters OPEN, and no statement rests on them. -/
def Config.testBench : Config where
  cols := 5
  rows := 5
  kDwell := 10
  refreshTick := 20
  scrollUnit := 1000
  rowActiveHigh := true
  colActiveHigh := true
  glyphs := []

end Sys2Proof
end

