-- ==== Sys2Proof/Machine/State.lean ====
section
/-! DEFINITION. The state of LEDMX (rules R20 to R40 of spec/10_state.md) as plain data, what the outside world puts
in (rule R15: host, block and environment), the reasons a step can stop, and the state after reset (rule R50). -/

namespace Sys2Proof.Machine

/-- Source memory SRC (rule R64): the listed bytes, strictly rising addresses, none equal to `unlistedByte`. -/
abbrev Memory := List Host.Cell

/-- `result` (rule R29). -/
inductive Result where
  /-- 0, no command accepted since reset -/
  | none
  /-- 1 -/
  | ok
  /-- 2 -/
  | tooFast
  /-- 3 -/
  | aborted
  /-- 4, still in progress -/
  | pending
deriving DecidableEq, Repr

/-- `op` (rule R38). -/
inductive Op where
  | none
  | render
  | display
  | animate
deriving DecidableEq, Repr

/-- `phase` (rule R38). -/
inductive Phase where
  | idle
  | dwell
  | tick
deriving DecidableEq, Repr

/-- `an_kind` (rules R37, R181). -/
inductive Kind where
  /-- 0, the source is a frame array -/
  | frames
  /-- 1, the source is a byte sequence resolved through `Lookup` -/
  | bytes
deriving DecidableEq, Repr

/-- The animation registers `an_*` (rule R37). Addresses and lengths copied from the host's registers are words; the counters and
times are naturals, kept inside their widths by the invariant `State.Inv`. -/
structure Anim where
  kind : Kind
  base : Word
  n : Word
  effect : Effect
  sequence : Nat
  frameIndex : Nat
  index : Nat
  length : Nat
  wait : Nat
  next : Nat
deriving DecidableEq, Repr

/-- What one agent does next (rule R15). The list `State.inputs` is the order in which the agents move; every interleaving
of host, environment and block is such a list (assumption 4). -/
inductive Input where
  /-- Host: `RegRead(off)` (rule R61). -/
  | read (off : Nat)
  /-- Host: `RegWrite(off, v)` (rule R61). -/
  | write (off : Nat) (v : Word)
  /-- Host: an access of fewer than 4 bytes, which the port cannot express (rule R71). -/
  | narrow (off bytes : Nat)
  /-- Host: it changes one byte of its source memory (rule R64). -/
  | srcWrite (addr : Word) (v : Byte)
  /-- Environment: `now` becomes `t` (rule R15). -/
  | setNow (t : Nat)
  /-- Block: it takes its enabled step, if it has one (rules R15, R262, R263). -/
  | blockTurn
  /-- Platform: the reset input is asserted (rule R320). -/
  | reset
  /-- Host: `WAIT_IDLE` (rule R100), reads of STATUS until BUSY reads 0. -/
  | waitIdle
  /-- Environment: `ADVANCE t` (rule R100), block steps taken as early as possible on the way. -/
  | advanceTo (t : Nat)
deriving DecidableEq, Repr

/-- The machine. -/
structure State where
  /-- Parameters of the instance (rule R40); no step changes them. -/
  cfg : Config
  /-- Frame buffer FB (rule R21). -/
  fb : Frame
  /-- SRC_BASE (rule R23). -/
  srcBase : Word
  /-- SRC_LEN (rule R23). -/
  srcLen : Word
  /-- DURATION_LO (rules R23, R45). -/
  durationLo : Word
  /-- DURATION_HI (rules R23, R45). -/
  durationHi : Word
  /-- CMD_LAST (rule R24). -/
  cmdLast : Word
  /-- `row_p` (rule R25). -/
  rowP : Nat
  /-- `brightness` (rule R27). -/
  brightness : Nat
  /-- `fault` (rule R28). -/
  fault : Bool
  /-- `inert` (rule R28). -/
  inert : Bool
  /-- `reject` (rule R28). -/
  reject : Bool
  /-- `result` (rule R29). -/
  result : Result
  /-- `fault_cause` (rule R30); `none` is the code 0. -/
  faultCause : Option RangeFault
  /-- `reject_cause` (rule R31); `none` is the code 0. -/
  rejectCause : Option RejectCause
  /-- `row_out` (rule R32), row 0 first. -/
  rowOut : List Bool
  /-- `col_out` (rule R32), column 0 first. -/
  colOut : List Bool
  /-- `oe` (rule R33). -/
  oe : Bool
  /-- The `an_*` registers (rule R37). -/
  an : Anim
  /-- `op` (rule R38). -/
  op : Op
  /-- `phase` (rule R38). -/
  phase : Phase
  /-- `t_wait_end` (rule R38). -/
  tWaitEnd : Nat
  /-- `disp_deadline` (rule R38). -/
  dispDeadline : Nat
  /-- `abort_req` (rule R38). -/
  abortReq : Bool
  /-- The time input `now` (rules R12, R40). -/
  now : Nat
  /-- The host's source memory `Src` (rules R40, R64). -/
  src : Memory
  /-- What the agents do next (the model's own field, assumption 4). -/
  inputs : List Input
  /-- The word the last `RegRead` or poll of STATUS returned to the host (the model's own field, assumption 5). -/
  readData : Option Word
deriving DecidableEq, Repr

/-- The reasons the machine stops with a fault. A precondition fault of the block (rule R284) is NOT one of them: it is a next
state, with `State.fault` set. -/
inductive Fault where
  /-- The host addressed REG at an offset above 0x7FC, which rule R61 does not give the port; the fault is the model's choice
  (assumption 11). Raised by `hostRead` and `hostWrite`. Safe: the machine stops. -/
  | offsetOutsideReg
deriving DecidableEq, Repr

/-- The reasons a step has no meaning. -/
inductive Refusal where
  /-- An instruction without a meaning. Raised by no arm of `exec`. Safe. -/
  | notModelled (mnemonic : String)
  /-- A register access at an offset that is not a multiple of 4 (rule R71: "a model refuses it"). Raised by `hostRead` and
  `hostWrite`. Safe. -/
  | unalignedAccess
  /-- A register access narrower than 32 bits (rule R71: "a model refuses it"). Raised by `runInput`. Safe. -/
  | narrowAccess
  /-- A time sum reaches `2^64` (U9, D30, rules R186, R242, R337: "refuse"). Raised by `renderBegin`, `dwellEnd`, `startAnimate`,
  DISPLAY and the environment's steps. Safe. -/
  | timeOverflow
  /-- The environment would move `now` backwards (U10: "refuse", rule R337). Raised by `setTime` and `advanceTo`. Safe. -/
  | timeBackwards
deriving DecidableEq, Repr

/-- The outcome of one step. -/
abbrev StepResult := Host.Outcome State Fault Refusal

/-- The animation registers after reset: all 0 (rule R50). -/
def Anim.reset : Anim where
  kind := .frames
  base := 0#32
  n := 0#32
  effect := .none
  sequence := 0
  frameIndex := 0
  index := 0
  length := 0
  wait := 0
  next := 0

/-- The state of an instance right after reset (rule R50), at time 0, with a source memory that lists nothing and no input
pending (the last three are DESIGN CHOICES, assumptions 1, 4 and 6). -/
def State.resetOf (c : Config) : State where
  cfg := c
  fb := List.replicate c.rows ⟨0#8, c.cols⟩
  srcBase := 0#32
  srcLen := 0#32
  durationLo := 0#32
  durationHi := 0#32
  cmdLast := 0#32
  rowP := 0
  brightness := brDefault
  fault := false
  inert := false
  reject := false
  result := .none
  faultCause := none
  rejectCause := none
  rowOut := List.replicate c.rows false
  colOut := List.replicate c.cols false
  oe := true
  an := Anim.reset
  op := .none
  phase := .idle
  tWaitEnd := 0
  dispDeadline := 0
  abortReq := false
  now := 0
  src := []
  inputs := []
  readData := none

/-- The machine right after reset, for the instance `Config.testBench` (assumption 2). -/
def State.reset : State := State.resetOf Config.testBench

end Sys2Proof.Machine
end

