-- ==== Sys2Proof/Machine/Flags.lean ====
section
/-! DEFINITION. Flags and status (rules R28 to R31, R39, R43, R298): the codes, the STATUS word, the level outputs and the four
operating conditions. -/

namespace Sys2Proof.Machine

/-- `busy` is the value of `op ≠ OP_NONE` (rule R28). -/
def State.busy (s : State) : Bool := decide (s.op ≠ .none)

/-- The codes of rule R29. -/
def Result.code : Result → BitVec 3
  | .none => 0#3
  | .ok => 1#3
  | .tooFast => 2#3
  | .aborted => 3#3
  | .pending => 4#3

/-- The codes of rule R30. -/
def faultCode : Option RangeFault → BitVec 4
  | none => 0#4
  | some .yRange => 1#4
  | some .xRange => 2#4

/-- The codes of rule R288. -/
def rejectCode : Option RejectCause → BitVec 4
  | none => 0#4
  | some .busy => 1#4
  | some .illegalOpcode => 2#4
  | some .reservedNonzero => 3#4
  | some .faulted => 4#4
  | some .inert => 5#4
  | some .notAbortable => 6#4

/-- The STATUS register, field by field from bit 31 down (rule R43). -/
def State.statusWord (s : State) : Word :=
  (0#16 ++ rejectCode s.rejectCause ++ faultCode s.faultCause ++ 0#1 ++ s.result.code ++ BitVec.ofBool s.reject
    ++ BitVec.ofBool s.inert ++ BitVec.ofBool s.fault ++ BitVec.ofBool s.busy : BitVec (16 + 4 + 4 + 1 + 3 + 1 + 1 + 1 + 1))

/-- The level output `busy_o` (rule R39). -/
def State.busyOut (s : State) : Bool := s.busy

/-- The level output `fault_o` (rule R39). -/
def State.faultOut (s : State) : Bool := s.fault

/-- READY (rule R298). -/
abbrev State.Ready (s : State) : Prop := s.fault = false ∧ s.inert = false ∧ s.op = .none

/-- BUSY (rule R298). -/
abbrev State.Busy (s : State) : Prop := s.op ≠ .none

/-- FAULTED (rule R298). -/
abbrev State.Faulted (s : State) : Prop := s.fault = true

/-- INERT (rule R298). -/
abbrev State.Inert (s : State) : Prop := s.inert = true

end Sys2Proof.Machine
end

