-- ==== Sys2Proof/Machine/Bitmap.lean ====
section
/-! DEFINITION. The row word and its shifter (rules R120 to R135, spec/40_bitmap.md). Pure functions; a fault of a primitive is
the `error` of its result, a combine of unequal widths is refused (`none`). -/

namespace Sys2Proof

/-- `FIELD(nbits)` (rule R121); `ROWMASK` of rule R67 is `fieldMask COLS`. -/
def fieldMask (nbits : Nat) : Byte := 0xFF#8 <<< (8 - nbits)

/-- The storage bit of bit index `b` (rule R122): `0x80 >> b`. -/
def bitMask (b : Nat) : Byte := 0x80#8 >>> b

/-- Canonical form (rule R121): the bits below the field are 0. -/
abbrev Bitmap.Canonical (m : Bitmap) : Prop := m.data &&& ~~~fieldMask m.nbits = 0#8

/-- A row entering the block in storage form, its low bits forced to 0 (rules R67, R121). -/
def Bitmap.ofStorage (nbits : Nat) (d : Byte) : Bitmap := ⟨d &&& fieldMask nbits, nbits⟩

/-- Rule R123. -/
def Bitmap.new (pattern : Byte) (nbits : Nat) : Bitmap := ⟨pattern <<< (8 - nbits), nbits⟩

/-- Rule R124. -/
def Bitmap.empty (nbits : Nat) : Bitmap := ⟨0#8, nbits⟩

/-- Rule R125. -/
def Bitmap.set (m : Bitmap) (bit : Nat) : Except RangeFault Bitmap :=
  if m.nbits ≤ bit then .error .xRange else .ok ⟨m.data ||| bitMask bit, m.nbits⟩

/-- Rule R126. -/
def Bitmap.clear (m : Bitmap) (bit : Nat) : Except RangeFault Bitmap :=
  if m.nbits ≤ bit then .error .xRange else .ok ⟨m.data &&& ~~~bitMask bit, m.nbits⟩

/-- The pixel test of rules R127 and R221: `(data & (0x80 >> bit)) != 0`. -/
def Bitmap.pixel (m : Bitmap) (bit : Nat) : Bool := decide (m.data &&& bitMask bit ≠ 0#8)

/-- Rule R127. -/
def Bitmap.isSet (m : Bitmap) (bit : Nat) : Except RangeFault Bool :=
  if m.nbits ≤ bit then .error .xRange else .ok (m.pixel bit)

/-- Rule R128. -/
def Bitmap.clearAll (m : Bitmap) : Bitmap := ⟨0#8, m.nbits⟩

/-- Rule R129; a shift by 8 or more gives 0 (rule R16). -/
def Bitmap.shiftLeft (m : Bitmap) (n : Nat) : Bitmap := ⟨m.data <<< n, m.nbits⟩

/-- Rule R130: the field mask discards what leaves the field. -/
def Bitmap.shiftRight (m : Bitmap) (n : Nat) : Bitmap := ⟨(m.data >>> n) &&& fieldMask m.nbits, m.nbits⟩

/-- The OR gate of rule R131 on rows known to be equally wide. -/
def Bitmap.orRow (m other : Bitmap) : Bitmap := ⟨m.data ||| other.data, m.nbits⟩

/-- The AND gate of rule R132 on rows known to be equally wide. -/
def Bitmap.andRow (m other : Bitmap) : Bitmap := ⟨m.data &&& other.data, m.nbits⟩

/-- Rule R131; unequal widths are refused (U6). -/
def Bitmap.or (m other : Bitmap) : Option Bitmap := if m.nbits = other.nbits then some (m.orRow other) else none

/-- Rule R132; unequal widths are refused (U6). -/
def Bitmap.and (m other : Bitmap) : Option Bitmap := if m.nbits = other.nbits then some (m.andRow other) else none

end Sys2Proof
end

