-- ==== Sys2Proof/Machine/Frame.lean ====
section
/-! DEFINITION. The grid of rows (rules R140 to R151, spec/41_frame.md): the Bitmap operations on one row or on all. -/

namespace Sys2Proof

/-- The frame is a `Frame<X,Y>` (rule R140). -/
abbrev Frame.HasShape (f : Frame) (x y : Nat) : Prop := f.length = y ∧ ∀ m ∈ f, m.nbits = x

/-- Rule R141. -/
def Frame.empty (x y : Nat) : Frame := List.replicate y (Bitmap.empty x)

/-- Replace row `y` by the result of a primitive on it; the row is selected before the bit is tested (rule R142). -/
def Frame.updateRow (f : Frame) (y : Nat) (op : Bitmap → Except RangeFault Bitmap) : Except RangeFault Frame :=
  match f[y]? with
  | none => .error .yRange
  | some row =>
    match op row with
    | .error c => .error c
    | .ok row' => .ok (List.set f y row')

/-- Rule R142. -/
def Frame.setPixel (f : Frame) (x y : Nat) : Except RangeFault Frame := Frame.updateRow f y (fun row => row.set x)

/-- Rule R143. -/
def Frame.clearPixel (f : Frame) (x y : Nat) : Except RangeFault Frame := Frame.updateRow f y (fun row => row.clear x)

/-- Rule R144. -/
def Frame.isSet (f : Frame) (x y : Nat) : Except RangeFault Bool :=
  match f[y]? with
  | none => .error .yRange
  | some row => row.isSet x

/-- Pixel (x, y) of a frame; false outside it. -/
def Frame.pixel (f : Frame) (x y : Nat) : Bool :=
  match f[y]? with
  | none => false
  | some row => decide (x < row.nbits) && row.pixel x

/-- Rule R145. -/
def Frame.shiftLeft (f : Frame) (n : Nat) : Frame := f.map (fun row => row.shiftLeft n)

/-- Rule R146. -/
def Frame.shiftRight (f : Frame) (n : Nat) : Frame := f.map (fun row => row.shiftRight n)

/-- The row-wise OR of rule R147 on frames known to be of one shape. -/
def Frame.orRows (f g : Frame) : Frame := List.zipWith Bitmap.orRow f g

/-- The row-wise AND of rule R148 on frames known to be of one shape. -/
def Frame.andRows (f g : Frame) : Frame := List.zipWith Bitmap.andRow f g

/-- Two frames of one shape (rule R147). -/
abbrev Frame.SameShape (f g : Frame) : Prop := f.map Bitmap.nbits = g.map Bitmap.nbits

/-- Rule R147; frames of different shapes are refused (U6). -/
def Frame.or (f g : Frame) : Option Frame := if Frame.SameShape f g then some (Frame.orRows f g) else none

/-- Rule R148; frames of different shapes are refused (U6). -/
def Frame.and (f g : Frame) : Option Frame := if Frame.SameShape f g then some (Frame.andRows f g) else none

end Sys2Proof
end

