-- ==== Sys2Proof/Machine/Operands.lean ====
section
/-! DEFINITION. Operands: the source memory and its reads (rules R64 to R69, spec/20_memory.md), the character lookup (rules R13,
R65), the one addressing mode `SrcFrame` (rule R69) and the DURATION operand (rule R45). -/

namespace Sys2Proof.Machine

/-- What an address that the memory does not list reads as. DESIGN CHOICE (assumption 6): rule R64 makes SRC total and gives no
contents. -/
def unlistedByte : Byte := 0x00#8

/-- The byte the memory holds at an address. -/
def Memory.read : Memory → Nat → Byte
  | [], _ => unlistedByte
  | (k, v) :: rest, a => if k = a then v else Memory.read rest a

/-- The memory with one byte changed, in canonical form. -/
def Memory.write : Memory → Nat → Byte → Memory
  | [], a, b => if b = unlistedByte then [] else [(a, b)]
  | (k, v) :: rest, a, b =>
    if a < k then (if b = unlistedByte then (k, v) :: rest else (a, b) :: (k, v) :: rest)
    else if a = k then (if b = unlistedByte then rest else (a, b) :: rest)
    else (k, v) :: Memory.write rest a b

/-- Every listed address lies below `hi`, above `lo`, in strictly rising order, and no listed byte is what an unlisted address
reads as. -/
def Memory.wfFrom : Nat → Memory → Bool
  | _, [] => true
  | lo, (k, v) :: rest => decide (lo ≤ k) && decide (k < 2 ^ 32) && decide (v ≠ unlistedByte) && Memory.wfFrom (k + 1) rest

/-- The canonical form of SRC: addresses of the 32-bit space (rule R64) strictly rising, no entry that could be left out. -/
def Memory.wf (m : Memory) : Bool := Memory.wfFrom 0 m

/-- `MemRead(addr, 1)` (rule R66): the address is reduced `mod 2^32`, so a source wraps at the top of SRC. -/
def memRead (m : Memory) (addr : Nat) : Byte := m.read (addr % 2 ^ 32)

/-- `FrameAt(base, k)` (rule R67). -/
def frameAt (c : Config) (m : Memory) (base : Word) (k : Nat) : Frame :=
  (List.range c.rows).map (fun y => Bitmap.ofStorage c.cols (memRead m (base.toNat + k * c.rows + y)))

/-- `ByteAt(base, k)` (rule R68). -/
def byteAt (m : Memory) (base : Word) (k : Nat) : Byte := memRead m (base.toNat + k)

/-- The storage rows the table lists for a byte; none for an unlisted one. -/
def glyphRows : List (Nat × List Byte) → Nat → List Byte
  | [], _ => []
  | (k, rows) :: rest, b => if k = b then rows else glyphRows rest b

/-- `Lookup(b)` (rules R13, R65): a whole frame, rows in canonical form, blank where the table lists nothing. -/
def lookup (c : Config) (b : Byte) : Frame :=
  (List.range c.rows).map (fun y => Bitmap.ofStorage c.cols ((glyphRows c.glyphs b.toNat).getD y 0#8))

/-- `SrcFrame(kind, base, k)` (rule R69). -/
def srcFrame (c : Config) (m : Memory) (kind : Kind) (base : Word) (k : Nat) : Frame :=
  match kind with
  | .frames => frameAt c m base k
  | .bytes => lookup c (byteAt m base k)

/-- DURATION as a number: `DURATION_HI ++ DURATION_LO` (rule R45). -/
def State.duration (s : State) : Nat := (s.durationHi ++ s.durationLo).toNat

end Sys2Proof.Machine
end

