-- ==== Sys2Proof/Machine/Ops.lean ====
section
/-! DEFINITION. The named operations the commands and the block's own steps share: acceptance and rejection (rules R96, R287),
fault entry and the reset that alone leaves FAULTED (rules R284, R320), and the driver's micro-operations (rules R210, R211, R221,
R222, R260, R261). -/

namespace Sys2Proof.Machine

/-- `reject(cause)` (rule R287): nothing else changes. -/
def State.rejectWith (s : State) (c : RejectCause) : State := { s with reject := true, rejectCause := some c }

/-- The record of an accepted command, `CMD_LAST <- w` (rules R24, R96), with `w` the command's word. -/
def State.acceptCmd (s : State) (i : Instr) : State := { s with cmdLast := encode i }

/-- Fault entry `raise Fault(cause)` (rule R284), the one exception of the block: nothing else changes. -/
def State.raiseFault (s : State) (c : RangeFault) : State := { s with fault := true, faultCause := some c }

/-- Reset (rules R50, R320, R321): every piece of the block's state takes its reset value. The time input, the source memory, the
agents' inputs and what the host has read are not the block's. There is no other way out of FAULTED (rules R285, R293). -/
def State.resetBlock (s : State) : State :=
  { State.resetOf s.cfg with now := s.now, src := s.src, inputs := s.inputs, readData := s.readData }

/-- The acceptance checks of rule R96 that remain for a legal command word, in its order: lines 1, 2, 5 and 6. `none` accepts. -/
def State.gate (s : State) (i : Instr) : Option RejectCause :=
  if s.inert then some .inert
  else if s.fault then some .faulted
  else if i = .abort then
    match s.op with
    | .display => none
    | .animate => none
    | .render => some .busy
    | .none => some .notAbortable
  else if s.op ≠ .none then some .busy
  else none

/-- A legal command word: rejected, or recorded and executed in the same step (rule R96). -/
def runCommand (i : Instr) (body : State → StepResult) (s : State) : StepResult :=
  match s.gate i with
  | some c => .next (s.rejectWith c)
  | none => body (s.acceptCmd i)

/-- `Dwell(level)` (rule R166). -/
def dwell (c : Config) (level : Nat) : Nat := ((brMax - level) * c.kDwell) / brMax

/-- `ClearAll()` (rule R210). -/
def State.clearAll (s : State) : State :=
  { s with
    fb := Frame.empty s.cfg.cols s.cfg.rows
    rowOut := List.replicate s.cfg.rows false
    colOut := List.replicate s.cfg.cols false }

/-- `ApplyFrame(f)` (rule R211). -/
def State.applyFrame (s : State) (f : Frame) : State := { s with fb := f }

/-- The columns a render drives: column `x` active iff pixel `x` of row `row_p` is set (rule R221). -/
def State.renderColumns (s : State) : List Bool :=
  (List.range s.cfg.cols).map (fun x => (s.fb.getD s.rowP (Bitmap.empty s.cfg.cols)).pixel x)

/-- The state `RenderBegin()` leaves (rule R221). -/
def State.beginDwell (s : State) : State :=
  { s with
    rowOut := List.replicate s.cfg.rows false
    colOut := s.renderColumns
    tWaitEnd := s.now + dwell s.cfg s.brightness
    phase := .dwell }

/-- `RenderBegin()` (rule R221); a sum that reaches `2^64` is refused (U9). -/
def renderBegin (s : State) : StepResult :=
  if timeLimit ≤ s.now + dwell s.cfg s.brightness then .refused .timeOverflow else .next s.beginDwell

/-- `RenderEnd()` (rule R222). -/
def State.renderEnd (s : State) : State :=
  { s with rowOut := s.rowOut.set s.rowP true, rowP := (s.rowP + 1) % s.cfg.rows }

/-- The operation in progress is over with an outcome: the control machine is idle (rules R260, R261, R262). -/
def State.endOp (s : State) (r : Result) : State := { s with op := .none, phase := .idle, abortReq := false, result := r }

/-- `Finish()` (rule R260). -/
def State.finish (s : State) : State := s.clearAll.endOp .ok

/-- `Abandon()` (rule R261). -/
def State.abandon (s : State) : State := s.endOp .aborted

end Sys2Proof.Machine
end

