-- ==== Sys2Proof/Machine/Brightness.lean ====
section
/-! DEFINITION. The dimmer's level: its primitives (rules R161 to R163) and commands SET_BRIGHTNESS, INC_BRIGHTNESS, DEC_BRIGHTNESS
(rules R168 to R170, spec/42_brightness.md). -/

namespace Sys2Proof.Machine

/-- `Brightness.new(level)` (rule R161). -/
def brightnessNew (level : Nat) : Nat := min level brMax

/-- `+= amount` (rule R162). -/
def brightnessAdd (b amount : Nat) : Nat := min (b + amount) brMax

/-- `-= amount` (rule R163): saturating subtraction of rule R16. -/
def brightnessSub (b amount : Nat) : Nat := b - amount

/-- SET_BRIGHTNESS `level` (rule R168). -/
def execSetBrightness (level : Nat) (s : State) : StepResult :=
  runCommand (.setBrightness level) (fun s => .next { s with brightness := brightnessNew level, result := .ok }) s

/-- INC_BRIGHTNESS `amount` (rule R169). -/
def execIncBrightness (amount : Nat) (s : State) : StepResult :=
  runCommand (.incBrightness amount) (fun s => .next { s with brightness := brightnessAdd s.brightness amount, result := .ok }) s

/-- DEC_BRIGHTNESS `amount` (rule R170). -/
def execDecBrightness (amount : Nat) (s : State) : StepResult :=
  runCommand (.decBrightness amount) (fun s => .next { s with brightness := brightnessSub s.brightness amount, result := .ok }) s

end Sys2Proof.Machine
end

