-- ==== Sys2Proof/Machine/Buffer.lean ====
section
/-! DEFINITION. The commands on the frame buffer and the release of the pins: CLEAR, ON, OFF, APPLY, RELEASE (rules R212 to R218,
R226, spec/44_driver_short_ops.md). -/

namespace Sys2Proof.Machine

/-- CLEAR (rule R212). -/
def execClear (s : State) : StepResult :=
  runCommand .clear (fun s => .next { s.clearAll with result := .ok }) s

/-- A pixel command after acceptance: the frame primitive's fault is fault entry, its result the new buffer (rules R214, R216). -/
def pixelResult (r : Except RangeFault Frame) (s : State) : StepResult :=
  match r with
  | .error c => .next (s.raiseFault c)
  | .ok f => .next { s with fb := f, result := .ok }

/-- ON `x, y` (rule R214). -/
def execOn (x y : Nat) (s : State) : StepResult :=
  runCommand (.on x y) (fun s => pixelResult (Frame.setPixel s.fb x y) s) s

/-- OFF `x, y` (rule R216). -/
def execOff (x y : Nat) (s : State) : StepResult :=
  runCommand (.off x y) (fun s => pixelResult (Frame.clearPixel s.fb x y) s) s

/-- APPLY (rule R218). -/
def execApply (s : State) : StepResult :=
  runCommand .apply (fun s => .next { s.applyFrame (frameAt s.cfg s.src s.srcBase 0) with result := .ok }) s

/-- RELEASE (rule R226). -/
def execRelease (s : State) : StepResult :=
  runCommand .release (fun s => .next { s with oe := false, inert := true, result := .ok }) s

end Sys2Proof.Machine
end

