-- ==== Sys2Proof/Machine/Scanner.lean ====
section
/-! DEFINITION. The row scanner: RENDER (rule R220) and the block step `DwellEnd` that ends every render (rule R262). -/

namespace Sys2Proof.Machine

/-- RENDER (rule R220): its second half is a later `DwellEnd`. -/
def execRender (s : State) : StepResult :=
  runCommand .render (fun s => renderBegin { s with op := .render, result := .pending }) s

/-- `DwellEnd` is enabled (rule R262). -/
def State.dwellEndEnabled (s : State) : Bool := decide (s.phase = .dwell ∧ s.tWaitEnd ≤ s.now)

/-- `DwellEnd` (rule R262); a tick wait that would reach `2^64` is refused (U9). -/
def dwellEnd (s : State) : StepResult :=
  if s.op = .render then .next { s.renderEnd with op := .none, phase := .idle, result := .ok }
  else if timeLimit ≤ s.now + s.cfg.refreshTick then .refused .timeOverflow
  else .next { s.renderEnd with tWaitEnd := s.now + s.cfg.refreshTick, phase := .tick }

end Sys2Proof.Machine
end

