-- ==== Sys2Proof/Machine/Sequencer.lean ====
section
/-! DEFINITION. The frame sequencer and transition engine (rules R180 to R198, spec/43_animation.md): construction, the present
frame, and the stepper, as functions of the animation registers. -/

namespace Sys2Proof.Machine

/-- The result of one poll (rule R180). -/
inductive AnimationState where
  | wait
  | apply (f : Frame)
  | done
deriving DecidableEq, Repr

/-- The outcome of construction (rule R186); `overflow` is its "refuse" (U9). -/
inductive Construction where
  | ok (a : Anim)
  | tooFast
  | overflow
deriving DecidableEq, Repr

/-- `Length(effect, n)` (rule R182). -/
def animLength (c : Config) (effect : Effect) (n : Nat) : Nat :=
  match effect with
  | .slide => n * c.cols
  | .none => n

/-- The registers of a constructed animation (rule R186). -/
def animStart (now : Nat) (kind : Kind) (base n : Word) (effect : Effect) (length wait : Nat) : Anim where
  kind := kind
  base := base
  n := n
  effect := effect
  sequence := 0
  frameIndex := 0
  index := 0
  length := length
  wait := wait
  next := now

/-- `Animation.new(kind, base, n, effect, duration)` at time `now` (rule R186). -/
def animNew (c : Config) (now : Nat) (kind : Kind) (base n : Word) (effect : Effect) (duration : Nat) : Construction :=
  let length := animLength c effect n.toNat
  if length = 0 then .tooFast
  else if duration / length = 0 then .tooFast
  else if timeLimit ≤ now + duration then .overflow
  else .ok (animStart now kind base n effect length (duration / length))

/-- `current()` (rule R190). `CUR` and `NXT` of rule R22 are its two local frames. -/
def animCurrent (c : Config) (m : Memory) (a : Anim) : Frame :=
  let cur := srcFrame c m a.kind a.base a.frameIndex
  let nxt :=
    if a.frameIndex + 1 < a.n.toNat then srcFrame c m a.kind a.base (a.frameIndex + 1) else Frame.empty c.cols c.rows
  Frame.orRows (Frame.shiftLeft cur a.sequence) (Frame.shiftRight nxt (c.cols - a.sequence))

/-- The progress registers after an Apply event (rule R192). -/
def animAdvance (c : Config) (a : Anim) : Anim :=
  let stepped : Anim :=
    match a.effect with
    | .slide =>
      if a.sequence = c.cols - 1 then { a with sequence := 0, frameIndex := a.frameIndex + 1 }
      else { a with sequence := a.sequence + 1 }
    | .none => { a with frameIndex := a.frameIndex + 1 }
  { stepped with index := a.index + 1, next := a.next + a.wait }

/-- `next(now)` (rule R192): the result of the poll and the registers it leaves. -/
def animPoll (c : Config) (m : Memory) (now : Nat) (a : Anim) : AnimationState × Anim :=
  if now < a.next then (.wait, a)
  else if a.index < a.length then (.apply (animCurrent c m a), animAdvance c a)
  else (.done, a)

end Sys2Proof.Machine
end

