-- ==== Sys2Proof/Machine/LongOps.lean ====
section
/-! DEFINITION. The long operations (spec/45_driver_long_ops.md): DISPLAY, SCROLL, SCROLL_SPEED, ANIMATE, ANIMATE_FRAMES, ABORT
(rules R242 to R256), the loop head `AnimateIter` (rule R258) and the block step `TickEnd` (rule R263). -/

namespace Sys2Proof.Machine

/-- `AnimateIter()` (rule R258): one poll, and a render unless it answers `Done`. -/
def animateIter (s : State) : StepResult :=
  match animPoll s.cfg s.src s.now s.an with
  | (.wait, _) => renderBegin s
  | (.apply f, a) => renderBegin { s.applyFrame f with an := a }
  | (.done, _) => .next s.finish

/-- `StartAnimate(kind, effect, duration)` (rule R254). -/
def startAnimate (kind : Kind) (effect : Effect) (duration : Nat) (s : State) : StepResult :=
  match animNew s.cfg s.now kind s.srcBase s.srcLen effect duration with
  | .tooFast => .next { s with result := .tooFast }
  | .overflow => .refused .timeOverflow
  | .ok a => animateIter { s with an := a, op := .animate, abortReq := false, result := .pending }

/-- The duration SCROLL derives from the text length (rule R246). -/
def scrollDuration (s : State) : Nat := (s.srcLen.toNat / 2) * s.cfg.scrollUnit

/-- DISPLAY (rule R242). -/
def execDisplay (s : State) : StepResult :=
  runCommand .display (fun s =>
    if timeLimit ≤ s.now + s.duration then .refused .timeOverflow
    else renderBegin
      { s.applyFrame (frameAt s.cfg s.src s.srcBase 0) with
        dispDeadline := s.now + s.duration
        op := .display
        abortReq := false
        result := .pending }) s

/-- SCROLL (rule R246). -/
def execScroll (s : State) : StepResult :=
  runCommand .scroll (fun s => startAnimate .bytes .slide (scrollDuration s) s) s

/-- SCROLL_SPEED (rule R248). -/
def execScrollSpeed (s : State) : StepResult :=
  runCommand .scrollSpeed (fun s => startAnimate .bytes .slide s.duration s) s

/-- ANIMATE `effect` (rule R250). -/
def execAnimate (effect : Effect) (s : State) : StepResult :=
  runCommand (.animate effect) (fun s => startAnimate .bytes effect s.duration s) s

/-- ANIMATE_FRAMES `effect` (rule R252). -/
def execAnimateFrames (effect : Effect) (s : State) : StepResult :=
  runCommand (.animateFrames effect) (fun s => startAnimate .frames effect s.duration s) s

/-- ABORT (rule R256): latched, acted on by the next `TickEnd`. -/
def execAbort (s : State) : StepResult :=
  runCommand .abort (fun s => .next { s with abortReq := true }) s

/-- `TickEnd` is enabled (rule R263). -/
def State.tickEndEnabled (s : State) : Bool :=
  decide (s.phase = .tick ∧ (s.abortReq = true ∨ s.tWaitEnd ≤ s.now))

/-- `TickEnd` (rule R263): a latched ABORT wins. -/
def tickEnd (s : State) : StepResult :=
  if s.abortReq then .next s.abandon
  else if s.op = .display then
    if s.dispDeadline ≤ s.now then .next s.finish else renderBegin s
  else animateIter s

end Sys2Proof.Machine
end

