-- ==== Sys2Proof/Machine/Dispatch.lean ====
section
/-! DEFINITION. The meaning of each command (rule R94's column "rule"), one arm per constructor of `Instr`. -/

namespace Sys2Proof.Machine

/-- A legal command word written to CMD: acceptance or rejection, and the command's own rule (rule R96). -/
def exec (i : Instr) (s : State) : Host.Outcome State Fault Refusal :=
  match i with
  | .clear => Sys2Proof.Machine.execClear s
  | .on x y => Sys2Proof.Machine.execOn x y s
  | .off x y => Sys2Proof.Machine.execOff x y s
  | .apply => Sys2Proof.Machine.execApply s
  | .setBrightness level => Sys2Proof.Machine.execSetBrightness level s
  | .incBrightness amount => Sys2Proof.Machine.execIncBrightness amount s
  | .decBrightness amount => Sys2Proof.Machine.execDecBrightness amount s
  | .render => Sys2Proof.Machine.execRender s
  | .display => Sys2Proof.Machine.execDisplay s
  | .scroll => Sys2Proof.Machine.execScroll s
  | .scrollSpeed => Sys2Proof.Machine.execScrollSpeed s
  | .animate effect => Sys2Proof.Machine.execAnimate effect s
  | .animateFrames effect => Sys2Proof.Machine.execAnimateFrames effect s
  | .release => Sys2Proof.Machine.execRelease s
  | .abort => Sys2Proof.Machine.execAbort s

end Sys2Proof.Machine
end

