-- ==== Sys2Proof/Machine/HostPort.lean ====
section
/-! DEFINITION. The host's register port (rules R41 to R49 of spec/10_state.md, R61, R71, R73 of spec/20_memory.md), what a write of
CMD does (rule R96), and the host's text form (rules R99, R100). -/

namespace Sys2Proof.Machine

/-- The offset of FBROW[y] (rule R49). -/
def fbRowOffset (y : Nat) : Nat := 0x400 + 4 * y

/-- The value of a register read at an aligned offset; an offset rule R41 does not list reads 0 (rules R41 to R49, R71). -/
def State.regRead (s : State) (off : Nat) : Word :=
  if off = 0x000 then s.cmdLast
  else if off = 0x004 then s.statusWord
  else if off = 0x008 then s.srcBase
  else if off = 0x00C then s.srcLen
  else if off = 0x010 then s.durationLo
  else if off = 0x014 then s.durationHi
  else if off = 0x018 then BitVec.ofNat 32 s.brightness
  else if off = 0x01C then BitVec.ofNat 32 s.rowP
  else if off = 0x020 then BitVec.ofNat 32 (s.cfg.cols + 256 * s.cfg.rows)
  else if 0x400 ≤ off ∧ off < fbRowOffset s.cfg.rows then
    (s.fb.getD ((off - 0x400) / 4) (Bitmap.empty s.cfg.cols)).data.setWidth 32
  else 0#32

/-- A write of `w` to CMD (rules R42, R96): lines 1 and 2 come before decoding, so they also decide for a word that is no command. -/
def writeCmd (w : Word) (s : State) : StepResult :=
  match decodeWord w with
  | .ok i => exec i s
  | .error c =>
    .next (s.rejectWith (if s.inert then .inert else if s.fault then .faulted else c))

/-- A write to STATUS (rule R43): only bit 3 is writable, and writing 1 there clears the rejection record. -/
def State.writeStatus (s : State) (v : Word) : State :=
  if v.getLsbD 3 then { s with reject := false, rejectCause := none } else s

/-- A register write at an aligned offset; read-only and unlisted offsets ignore it (rules R41 to R49, R71). -/
def regWrite (off : Nat) (v : Word) (s : State) : StepResult :=
  if off = 0x000 then writeCmd v s
  else if off = 0x004 then .next (s.writeStatus v)
  else if off = 0x008 then .next { s with srcBase := v }
  else if off = 0x00C then .next { s with srcLen := v }
  else if off = 0x010 then .next { s with durationLo := v }
  else if off = 0x014 then .next { s with durationHi := v }
  else .next s

/-- An access the port can express: a multiple of 4 in `0 .. 0x7FC` (rule R61). Off a word boundary is a refusal (rule R71);
outside the window is a fault, looked at first, which is the model's choice (assumption 11). -/
def onPort (off : Nat) (access : StepResult) : StepResult :=
  if 0x7FC < off then .fault .offsetOutsideReg
  else if off % 4 ≠ 0 then .refused .unalignedAccess
  else access

/-- The host's `RegRead(off)`: no side effect on the block (rule R73). -/
def hostRead (off : Nat) (s : State) : StepResult := onPort off (.next { s with readData := some (s.regRead off) })

/-- The host's `RegWrite(off, v)`. -/
def hostWrite (off : Nat) (v : Word) (s : State) : StepResult := onPort off (regWrite off v s)

/-- The register names of rule R41. -/
inductive RegName where
  | cmd
  | status
  | srcBase
  | srcLen
  | durationLo
  | durationHi
  | brightness
  | rowP
  | config
  | fbRow (y : Nat)
deriving DecidableEq, Repr

/-- The offset of a register (rule R41). -/
def regOffset : RegName → Nat
  | .cmd => 0x000
  | .status => 0x004
  | .srcBase => 0x008
  | .srcLen => 0x00C
  | .durationLo => 0x010
  | .durationHi => 0x014
  | .brightness => 0x018
  | .rowP => 0x01C
  | .config => 0x020
  | .fbRow y => fbRowOffset y

/-- The line `WR <reg>, <value>` of the host's text form (rule R99). -/
def textWrite (r : RegName) (v : Word) : Input := .write (regOffset r) v

/-- The line `RD <reg>` of the host's text form (rule R99). -/
def textRead (r : RegName) : Input := .read (regOffset r)

/-- The line `<MNEMONIC> [a [, b]]` of the host's text form (rule R99). -/
def textCommand (i : Instr) : Input := .write 0x000 (encode i)

/-- `SET_DURATION d` (rule R100). -/
def textSetDuration (d : Nat) : List Input :=
  [textWrite .durationLo (BitVec.ofNat 32 (d % 2 ^ 32)), textWrite .durationHi (BitVec.ofNat 32 (d / 2 ^ 32))]

/-- `SET_SRC base, len` (rule R100). -/
def textSetSrc (base len : Word) : List Input := [textWrite .srcBase base, textWrite .srcLen len]

/-- `CLR_REJECT` (rule R100). -/
def textClrReject : Input := textWrite .status 0x00000008#32

end Sys2Proof.Machine
end

