-- ==== Sys2Proof/Machine/Agents.lean ====
section
/-! DEFINITION. The moves of the three agents (rule R15 of spec/00_scope.md): the block's own steps, the environment's clock, the
host's accesses, and the free run that embodies the fairness of decision D33. -/

namespace Sys2Proof.Machine

/-- The block has an enabled step (rules R262, R263). -/
def State.blockEnabled (s : State) : Bool := s.dwellEndEnabled || s.tickEndEnabled

/-- The block's turn: its enabled step, or nothing (rules R15, R262, R263). -/
def blockStep (s : State) : StepResult :=
  if s.dwellEndEnabled then dwellEnd s
  else if s.tickEndEnabled then tickEnd s
  else .next s

/-- The environment moves `now` to `t`, never backwards (rules R15, R337) and never to `2^64`. -/
def setTime (t : Nat) (s : State) : StepResult :=
  if t < s.now then .refused .timeBackwards
  else if timeLimit ≤ t then .refused .timeOverflow
  else .next { s with now := t }

/-- The run with no agent named: the block takes an enabled step as early as possible (rule R262), and otherwise time advances by
one tick (rule R15, D33). DESIGN CHOICE (assumption 4). -/
def freeRun (s : State) : StepResult :=
  if s.blockEnabled then blockStep s else setTime (s.now + 1) s

/-- The host's `WAIT_IDLE` (rule R100): it reads STATUS, and while BUSY reads 1 it stays where it is and the others move. -/
def waitIdle (s : State) : StepResult :=
  if s.busy then freeRun { s with readData := some s.statusWord, inputs := .waitIdle :: s.inputs }
  else .next { s with readData := some s.statusWord }

/-- `ADVANCE t` (rule R100): up to time `t`, block steps as early as possible. -/
def advanceTo (t : Nat) (s : State) : StepResult :=
  if t < s.now then .refused .timeBackwards
  else if s.blockEnabled ∨ s.now < t then freeRun { s with inputs := .advanceTo t :: s.inputs }
  else .next s

/-- The move of one agent. -/
def runInput (i : Input) (s : State) : StepResult :=
  match i with
  | .read off => hostRead off s
  | .write off v => hostWrite off v s
  | .narrow _ _ => .refused .narrowAccess
  | .srcWrite addr v => .next { s with src := s.src.write addr.toNat v }
  | .setNow t => setTime t s
  | .blockTurn => blockStep s
  | .reset => .next s.resetBlock
  | .waitIdle => waitIdle s
  | .advanceTo t => advanceTo t s

/-- The command word of an opcode-table row of `nbits` bits, the bits above them 0 (rule R90). -/
def tableWord (nbits w : Nat) : Word := BitVec.ofNat 32 (w % 2 ^ nbits)

end Sys2Proof.Machine
end

