-- ==== Sys2Proof/Machine/Step.lean ====
section
/-! DEFINITION. One step of the machine: the next agent moves (rule R15), and where no input is pending the machine runs free. -/

namespace Sys2Proof.Machine

/-- One step. The pending input is consumed by the move it stands for. -/
def step (s : State) : Host.Outcome State Fault Refusal :=
  match s.inputs with
  | [] => freeRun s
  | i :: rest => runInput i { s with inputs := rest }

/-- The state whose next step is the host's write of this command word to CMD (rule R90): the block fetches nothing (rule R25), so
the write is put at the head of the inputs (assumption 7). -/
def State.withFetchWord (s : State) (nbits w : Nat) : State :=
  { s with inputs := .write 0x000 (tableWord nbits w) :: s.inputs }

end Sys2Proof.Machine
end

