-- ==== Sys2Proof/Machine/Pins.lean ====
section
/-! DEFINITION. What the outside sees of the outputs: the level of each pin and the LEDs (rules R32 to R36 of spec/10_state.md). Nothing
of the machine reads these. -/

namespace Sys2Proof.Machine

/-- The electrical level of a pin whose logical level is `active` (rule R34). -/
def pinLevel (activeHigh active : Bool) : Bool := (active && activeHigh) || (!active && !activeHigh)

/-- The level of row pin `y`; `none` while the block drives no pin (rule R33) or where there is no such pin. -/
def State.rowPin (s : State) (y : Nat) : Option Bool :=
  if s.oe then (s.rowOut[y]?).map (pinLevel s.cfg.rowActiveHigh) else none

/-- The level of column pin `x`; `none` while the block drives no pin (rule R33) or where there is no such pin. -/
def State.colPin (s : State) (x : Nat) : Option Bool :=
  if s.oe then (s.colOut[x]?).map (pinLevel s.cfg.colActiveHigh) else none

/-- LED (x, y) is lit (rule R35). -/
def State.lit (s : State) (x y : Nat) : Bool := s.oe && s.rowOut.getD y false && s.colOut.getD x false

end Sys2Proof.Machine
end

