-- ==== Sys2Proof/Safety.lean ====
section
/-! DEFINITION. What claims are stated in: the invariant of the machine (rules R36, R37, R38, R51), the reading of one pixel and of
one source byte, and the sequencer polled on its own (rules R194, R195). -/

namespace Sys2Proof.Machine

/-- The animation registers of an operation in progress (rules R37, R186, R194, R195 and U9): the source is not empty, the progress
registers are those of `index` Apply events, and the deadlines still to come stay below `2^64`. -/
structure Anim.Running (c : Config) (a : Anim) : Prop where
  n_pos : 1 ≤ a.n.toNat
  length_eq : a.length = animLength c a.effect a.n.toNat
  wait_pos : 1 ≤ a.wait
  index_le : a.index ≤ a.length
  slide_progress : a.effect = .slide → a.sequence < c.cols ∧ a.index = a.frameIndex * c.cols + a.sequence
  none_progress : a.effect = .none → a.sequence = 0 ∧ a.index = a.frameIndex
  deadline_lt : a.next + (a.length - a.index) * a.wait < timeLimit

/-- The animation registers fit their widths (rule R37). -/
structure Anim.Fits (a : Anim) : Prop where
  sequence_lt : a.sequence < 2 ^ 4
  frameIndex_lt : a.frameIndex < 2 ^ 32
  index_lt : a.index < 2 ^ 36
  length_lt : a.length < 2 ^ 36
  wait_lt : a.wait < timeLimit
  next_lt : a.next < timeLimit

/-- The invariants of rules R36, R38 and R51, with those that follow from the commands' own rules: the outcome PENDING marks exactly an
operation in progress (rule R29), a dwell is spent dark (rule R221), causes are recorded with their flags (rules R30, R31). -/
structure State.Inv (s : State) : Prop where
  cfg_wf : s.cfg.WellFormed
  fb_shape : Frame.HasShape s.fb s.cfg.cols s.cfg.rows
  fb_canonical : ∀ row ∈ s.fb, row.Canonical
  rowP_lt : s.rowP < s.cfg.rows
  brightness_le : s.brightness ≤ brMax
  rowOut_length : s.rowOut.length = s.cfg.rows
  colOut_length : s.colOut.length = s.cfg.cols
  one_row : s.rowOut.count true ≤ 1
  dwell_dark : s.phase = .dwell → s.rowOut = List.replicate s.cfg.rows false
  idle_iff : s.op = .none ↔ s.phase = .idle
  render_dwell : s.op = .render → s.phase = .dwell
  abort_long : s.abortReq = true → s.op = .display ∨ s.op = .animate
  pending_iff : s.result = .pending ↔ s.op ≠ .none
  fault_idle : s.fault = true → s.op = .none
  inert_idle : s.inert = true → s.op = .none
  oe_iff : s.oe = false ↔ s.inert = true
  not_both : ¬(s.fault = true ∧ s.inert = true)
  fault_cause : s.fault = true ↔ s.faultCause ≠ none
  reject_cause : s.reject = true ↔ s.rejectCause ≠ none
  an_fits : s.an.Fits
  an_running : s.op = .animate → s.an.Running s.cfg
  now_lt : s.now < timeLimit
  tWaitEnd_lt : s.tWaitEnd < timeLimit
  dispDeadline_lt : s.dispDeadline < timeLimit
  src_wf : s.src.wf = true

/-- Pixel (x, y) of the frame buffer (rule R21). -/
abbrev State.pixel (s : State) (x y : Nat) : Bool := Frame.pixel s.fb x y

/-- The byte the source memory holds at an address of its 32-bit space (rules R64, R66). -/
abbrev State.srcByte (s : State) (a : Nat) : Byte := s.src.read (a % 2 ^ 32)

/-- Both states give the block the same operands, parameters, time and source memory, byte by byte, and leave the agents the same moves:
the part of the state that no command writes. -/
abbrev SameSurroundings (s t : State) : Prop :=
  t.cfg = s.cfg ∧ t.srcBase = s.srcBase ∧ t.srcLen = s.srcLen ∧ t.durationLo = s.durationLo ∧ t.durationHi = s.durationHi ∧
    t.now = s.now ∧ t.inputs = s.inputs ∧ t.readData = s.readData ∧ ∀ a, t.src.read a = s.src.read a

/-- Only the frame buffer, the outcome and the command record may differ: the frame of a command that changes pixels. -/
abbrev BufferFrame (s t : State) : Prop := t = { s with fb := t.fb, result := t.result, cmdLast := t.cmdLast }

/-- Only what `ClearAll`, the outcome and the command record may differ: the frame of CLEAR (rule R212). -/
abbrev ClearFrame (s t : State) : Prop :=
  t = { s with fb := t.fb, rowOut := t.rowOut, colOut := t.colOut, result := t.result, cmdLast := t.cmdLast }

/-- Only what the start of a render and of its operation writes may differ (rules R220, R221). -/
abbrev RenderFrame (s t : State) : Prop :=
  t = { s with
    rowOut := t.rowOut, colOut := t.colOut, tWaitEnd := t.tWaitEnd, phase := t.phase, op := t.op, result := t.result,
    cmdLast := t.cmdLast }

/-- Only what DISPLAY writes at acceptance may differ (rule R242). -/
abbrev DisplayFrame (s t : State) : Prop :=
  t = { s with
    fb := t.fb, rowOut := t.rowOut, colOut := t.colOut, tWaitEnd := t.tWaitEnd, phase := t.phase, op := t.op, result := t.result,
    cmdLast := t.cmdLast, dispDeadline := t.dispDeadline, abortReq := t.abortReq }

/-- Only what an animate command writes at acceptance may differ (rule R254). -/
abbrev AnimateFrame (s t : State) : Prop :=
  t = { s with
    fb := t.fb, rowOut := t.rowOut, colOut := t.colOut, tWaitEnd := t.tWaitEnd, phase := t.phase, op := t.op, result := t.result,
    cmdLast := t.cmdLast, an := t.an, abortReq := t.abortReq }

/-- The outputs a render's first half leaves (rule R221): every row inactive, every column as the buffer row `row_p` has it. -/
abbrev State.DrivesRow (t : State) (row : Nat) : Prop :=
  t.rowOut = List.replicate t.cfg.rows false ∧ t.colOut.length = t.cfg.cols ∧
    ∀ x < t.cfg.cols, t.colOut[x]? = some (t.pixel x row)

/-- The operands a command hands to `StartAnimate` (rules R246, R248, R250, R252): source kind, effect, duration; `none` for a
command that animates nothing. -/
def animateCall (s : State) : Instr → Option (Kind × Effect × Nat)
  | .scroll => some (.bytes, .slide, (s.srcLen.toNat / 2) * s.cfg.scrollUnit)
  | .scrollSpeed => some (.bytes, .slide, s.durationHi.toNat * 2 ^ 32 + s.durationLo.toNat)
  | .animate e => some (.bytes, e, s.durationHi.toNat * 2 ^ 32 + s.durationLo.toNat)
  | .animateFrames e => some (.frames, e, s.durationHi.toNat * 2 ^ 32 + s.durationLo.toNat)
  | .clear => none
  | .on _ _ => none
  | .off _ _ => none
  | .apply => none
  | .setBrightness _ => none
  | .incBrightness _ => none
  | .decBrightness _ => none
  | .render => none
  | .display => none
  | .release => none
  | .abort => none

/-- The steps of an animation over `n` source elements (rule R182). -/
def stepsOf (c : Config) (e : Effect) (n : Nat) : Nat :=
  match e with
  | .slide => n * c.cols
  | .none => n

/-- The frame of Apply event `i` of an animation, in closed form (rule R194). -/
def eventFrame (c : Config) (m : Memory) (a : Anim) (i : Nat) : Frame :=
  match a.effect with
  | .none => srcFrame c m a.kind a.base i
  | .slide =>
    Frame.orRows (Frame.shiftLeft (srcFrame c m a.kind a.base (i / c.cols)) (i % c.cols))
      (Frame.shiftRight
        (if i / c.cols + 1 < a.n.toNat then srcFrame c m a.kind a.base (i / c.cols + 1) else Frame.empty c.cols c.rows)
        (c.cols - i % c.cols))

/-- The row a long operation's last render activated: the one before `row_p`, cyclically (rule R222). -/
def State.lastRow (s : State) : Nat := (s.rowP + s.cfg.rows - 1) % s.cfg.rows

/-- What the outputs of a busy block show: in a dwell the columns of the row about to be lit, in a tick wait exactly the row the last
render activated, with its own columns (rules R221, R222, R241). -/
structure State.ScanPicture (s : State) : Prop where
  dwell_columns : s.phase = .dwell → ∀ x < s.cfg.cols, s.colOut[x]? = some (s.pixel x s.rowP)
  tick_row : s.phase = .tick → ∀ y, s.rowOut.getD y false = decide (y = s.lastRow)
  tick_columns : s.phase = .tick → ∀ x < s.cfg.cols, s.colOut[x]? = some (s.pixel x s.lastRow)

/-- The instance with other pin polarities (rule R11). -/
def State.withPolarity (s : State) (row col : Bool) : State :=
  { s with cfg := { s.cfg with rowActiveHigh := row, colActiveHigh := col } }

/-- The state with other output registers (rule R32). -/
def State.withPins (s : State) (rows cols : List Bool) : State := { s with rowOut := rows, colOut := cols }

/-- The frames a sequence of polls at the given times applies, in order, and the registers it leaves (rules R192, R194). -/
def pollAll (c : Config) (m : Memory) : List Nat → Anim → List Frame × Anim
  | [], a => ([], a)
  | t :: ts, a =>
    match animPoll c m t a with
    | (.apply f, a') => (f :: (pollAll c m ts a').1, (pollAll c m ts a').2)
    | (.wait, a') => pollAll c m ts a'
    | (.done, a') => pollAll c m ts a'

/-- The frame buffer is the empty frame and every output is inactive (rules R210, R266). -/
abbrev State.Dark (s : State) : Prop :=
  s.fb = Frame.empty s.cfg.cols s.cfg.rows ∧ s.rowOut = List.replicate s.cfg.rows false ∧
    s.colOut = List.replicate s.cfg.cols false

end Sys2Proof.Machine
end

