-- ==== Sys2Proof/Certificates/Slice0/Obligations.lean ====
section
/-! DEFINITION. The statements about LEDMX, one definition each. A statement speaks of every well-formed configuration and every state; where
a rule rests on the invariant of rules R36, R38 and R51, `State.Inv` is a premise, and `StepKeepsInvariant` states that invariant. -/

open Sys2Proof Sys2Proof.Machine

/-! ## Encoding (spec/30_encoding.md) -/

/-- Rules R91, R93, R94: decoding the word of a well-formed command gives it back, every operand at every value. -/
def Obligations.DecodeOfEncodeIsIdentity : Prop :=
  ∀ i : Instr, i.WellFormed → decodeWord (encode i) = .ok i

/-- Rules R90 to R94: every word that decodes is the one word of a well-formed command, so no accepted bit is dropped. -/
def Obligations.EncodeOfDecodeIsIdentity : Prop :=
  ∀ (w : Word) (i : Instr), decodeWord w = .ok i → i.WellFormed ∧ encode i = w

/-- Rules R92, R94: a word selects a command iff `w & mask = match` for that command's row of the opcode map. -/
def Obligations.DecodeSelectsByMaskAndMatch : Prop :=
  ∀ (w : Word) (row : OpcodeRow), row ∈ opcodeTable →
    ((∃ i, decodeWord w = .ok i ∧ i.opcode = row.opc) ↔ w &&& row.mask = row.pattern)

/-- Rule R99's three examples, and a word of every format with an operand bit set, read by the decoder. -/
def Obligations.DecodeReadsTheSpecWords : Prop :=
  decodeWord 0x00000202#32 = .ok (.on 2 0) ∧ decodeWord 0x00000F05#32 = .ok (.setBrightness 15) ∧
  decodeWord 0x0000010D#32 = .ok (.animateFrames .slide) ∧ decodeWord 0x00050702#32 = .ok (.on 7 5) ∧
  decodeWord 0x0000000A#32 = .ok .scroll ∧ decodeWord 0x0000000F#32 = .ok .abort ∧
  decodeWord 0x00000000#32 = .error .illegalOpcode ∧ decodeWord 0x0000020C#32 = .error .reservedNonzero

/-- Rule R97: in READY, a word with an illegal opcode, or with a non-zero must-be-zero field, only records its rejection. -/
def Obligations.IllegalAndReservedWordsAreRejected : Prop :=
  ∀ (s : State) (w : Word) (rest : List Input), s.Ready → s.inputs = .write 0x000 w :: rest →
    ((opcField w = 0 ∨ 0x10 ≤ opcField w) →
      step s = .next { s with inputs := rest, reject := true, rejectCause := some .illegalOpcode }) ∧
    (∀ row ∈ opcodeTable, opcField w = row.opc → w &&& row.mask ≠ row.pattern →
      step s = .next { s with inputs := rest, reject := true, rejectCause := some .reservedNonzero })

/-! ## What a write of CMD does (rule R96) -/

/-- A write of a command word to CMD is one step, and that step is the command's meaning on the state without the consumed input. -/
def Obligations.StepRunsTheDecodedCommand : Prop :=
  ∀ (s : State) (w : Word) (rest : List Input) (i : Instr), s.inputs = .write 0x000 w :: rest → decodeWord w = .ok i →
    step s = exec i { s with inputs := rest }

/-- Rules R96 and R287: the seven lines of the acceptance procedure in their order. A rejection changes the rejection record and nothing
else; an acceptance runs the command the word stands for, records the word in CMD_LAST and leaves the rejection record alone. -/
def Obligations.CommandWritesFollowTheAcceptanceOrder : Prop :=
  ∀ (s : State) (w : Word) (rest : List Input), s.inputs = .write 0x000 w :: rest →
    let rejected (c : RejectCause) : Prop := step s = .next { s with inputs := rest, reject := true, rejectCause := some c }
    let accepted : Prop := ∃ i, decodeWord w = .ok i ∧ i.opcode = opcField w ∧ step s = exec i { s with inputs := rest } ∧
      ∀ t, step s = .next t → t.cmdLast = w ∧ t.reject = s.reject ∧ t.rejectCause = s.rejectCause
    let legal : Prop := ∃ row ∈ opcodeTable, opcField w = row.opc
    let reserved : Prop := ∃ row ∈ opcodeTable, opcField w = row.opc ∧ w &&& row.mask ≠ row.pattern
    (s.inert = true → rejected .inert) ∧
    (s.inert = false → s.fault = true → rejected .faulted) ∧
    (s.inert = false → s.fault = false →
      (¬legal → rejected .illegalOpcode) ∧
      (legal → reserved → rejected .reservedNonzero) ∧
      (legal → ¬reserved →
        (opcField w = 0x0F →
          ((s.op = .display ∨ s.op = .animate) → accepted) ∧ (s.op = .render → rejected .busy) ∧
          (s.op = .none → rejected .notAbortable)) ∧
        (opcField w ≠ 0x0F → (s.op ≠ .none → rejected .busy) ∧ (s.op = .none → accepted))))

/-- No command writes the operand registers, the parameters, the time, the source memory or the other agents' moves (rules R23, R40, R64).
-/
def Obligations.CommandsLeaveTheirSurroundings : Prop :=
  ∀ (i : Instr) (s t : State), exec i s = .next t → SameSurroundings s t

/-! ## Invariants -/

/-- Rule R51 (with rules R36 and R38): every step keeps the state invariants. -/
def Obligations.StepKeepsInvariant : Prop :=
  ∀ s t : State, s.Inv → step s = .next t → t.Inv

/-- The reset state of every well-formed instance meets the invariant. -/
def Obligations.ResetMeetsInvariant : Prop :=
  ∀ c : Config, c.WellFormed → (State.resetOf c).Inv ∧ (State.resetOf c).Ready

/-- Rules R221, R222, R241: every step keeps what the outputs of a busy block show. -/
def Obligations.StepKeepsScanPicture : Prop :=
  ∀ s t : State, s.Inv → s.ScanPicture → step s = .next t → t.ScanPicture

/-- Rules R35, R221, R222: while the block is BUSY, an LED is lit only in the row the last render activated and only where the frame
buffer has that pixel: no row ever shows another row's columns. -/
def Obligations.BusyBlockLightsOnlyBufferPixels : Prop :=
  ∀ s : State, s.Inv → s.ScanPicture → s.Busy → ∀ x y, s.lit x y = true → y = s.lastRow ∧ s.pixel x y = true ∧ s.phase = .tick

/-- Rules R35, R36: at most one row of LEDs is lit. -/
def Obligations.AtMostOneRowIsLit : Prop :=
  ∀ s : State, s.Inv → ∀ x y x' y', s.lit x y = true → s.lit x' y' = true → y = y'

/-- Rule R298: exactly one of the four operating conditions holds. -/
def Obligations.ExactlyOneOperatingCondition : Prop :=
  ∀ s : State, s.Inv →
    (s.Ready ∧ ¬s.Busy ∧ ¬s.Faulted ∧ ¬s.Inert) ∨ (¬s.Ready ∧ s.Busy ∧ ¬s.Faulted ∧ ¬s.Inert) ∨
    (¬s.Ready ∧ ¬s.Busy ∧ s.Faulted ∧ ¬s.Inert) ∨ (¬s.Ready ∧ ¬s.Busy ∧ ¬s.Faulted ∧ s.Inert)

/-! ## Rules about the whole machine -/

/-- Rule R298, columns "entered by" and "left by": READY is left by an accepted command only, for BUSY by RENDER or a long operation, for
FAULTED by ON or OFF, for INERT by RELEASE; BUSY is left for READY only, by the end of a render or of a tick wait, or by reset; FAULTED and
INERT are left by reset only. -/
def Obligations.ConditionsChangeOnlyAsTabled : Prop :=
  ∀ s t : State, s.Inv → step s = .next t →
    (s.Ready → ¬t.Ready → ∃ w i, s.inputs.head? = some (.write 0x000 w) ∧ decodeWord w = .ok i ∧
      ((t.Busy ∧ (i = .render ∨ i = .display ∨ (animateCall s i).isSome)) ∨
       (t.Faulted ∧ ((∃ x y, i = .on x y) ∨ (∃ x y, i = .off x y))) ∨
       (t.Inert ∧ i = .release))) ∧
    (s.Busy → ¬t.Busy → t.Ready ∧
      (s.inputs.head? = some .reset ∨ (s.op = .render ∧ s.tWaitEnd ≤ s.now) ∨
        (s.phase = .tick ∧ (s.abortReq = true ∨ s.tWaitEnd ≤ s.now)))) ∧
    (s.Faulted → ¬t.Faulted → t.Ready ∧ s.inputs.head? = some .reset) ∧
    (s.Inert → ¬t.Inert → t.Ready ∧ s.inputs.head? = some .reset)

/-- Rule R285: while FAULTED, no step but reset changes anything of the block but its operand registers and the rejection record. -/
def Obligations.FaultedBlockHoldsUntilReset : Prop :=
  ∀ s t : State, s.Inv → s.Faulted → s.inputs.head? ≠ some .reset → step s = .next t →
    t = { s with
      srcBase := t.srcBase, srcLen := t.srcLen, durationLo := t.durationLo, durationHi := t.durationHi, reject := t.reject,
      rejectCause := t.rejectCause, now := t.now, src := t.src, inputs := t.inputs, readData := t.readData }

/-- Rules R33, R226, R298: while INERT, no step but reset changes anything of the block but its operand registers and the rejection record,
and no pin is driven and no LED lit. -/
def Obligations.InertBlockHoldsUntilReset : Prop :=
  ∀ s t : State, s.Inv → s.Inert → s.inputs.head? ≠ some .reset → step s = .next t →
    t = { s with
      srcBase := t.srcBase, srcLen := t.srcLen, durationLo := t.durationLo, durationHi := t.durationHi, reject := t.reject,
      rejectCause := t.rejectCause, now := t.now, src := t.src, inputs := t.inputs, readData := t.readData } ∧
    ∀ x y, t.rowPin y = none ∧ t.colPin x = none ∧ t.lit x y = false

/-- Rule R282: only an ON or OFF with a coordinate out of range enters FAULTED, `y` checked first (rule R142). -/
def Obligations.OnlyPixelCommandsFault : Prop :=
  ∀ s t : State, s.Inv → step s = .next t → s.fault = false → t.fault = true →
    ∃ w x y, s.inputs.head? = some (.write 0x000 w) ∧ (decodeWord w = .ok (.on x y) ∨ decodeWord w = .ok (.off x y)) ∧
      ((s.cfg.rows ≤ y ∧ t.faultCause = some .yRange) ∨
       (y < s.cfg.rows ∧ s.cfg.cols ≤ x ∧ t.faultCause = some .xRange))

/-- Rules R64, R17: only the host's write changes a byte of source memory, and only that byte. -/
def Obligations.OnlyTheHostWritesSourceMemory : Prop :=
  ∀ s t : State, s.Inv → step s = .next t →
    (∀ a v, s.inputs.head? = some (.srcWrite a v) → ∀ b, t.src.read b = if b = a.toNat then v else s.src.read b) ∧
    ((∀ a v, s.inputs.head? ≠ some (.srcWrite a v)) → ∀ b, t.src.read b = s.src.read b)

/-- Rules R12, R15: time never decreases, and only the environment's moves change it. That an empty list of moves runs free is the model's
choice (assumption 4). -/
def Obligations.OnlyTheEnvironmentAdvancesTime : Prop :=
  ∀ s t : State, step s = .next t → s.now ≤ t.now ∧
    (t.now ≠ s.now → s.inputs = [] ∨ s.inputs.head? = some .waitIdle ∨ (∃ n, s.inputs.head? = some (.advanceTo n)) ∨
      s.inputs.head? = some (.setNow t.now))

/-- Rule R27: brightness is written by the three brightness commands (and by reset) only. -/
def Obligations.OnlyBrightnessCommandsWriteBrightness : Prop :=
  ∀ s t : State, step s = .next t → t.brightness ≠ s.brightness →
    (∃ w v, s.inputs.head? = some (.write 0x000 w) ∧ (decodeWord w = .ok (.setBrightness v) ∨
      decodeWord w = .ok (.incBrightness v) ∨ decodeWord w = .ok (.decBrightness v))) ∨
    (s.inputs.head? = some .reset ∧ t.brightness = 5)

/-- Rule R25: the scan pointer is advanced only by the end of a render, by one row, cyclically. -/
def Obligations.OnlyRenderEndAdvancesTheScanPointer : Prop :=
  ∀ s t : State, s.Inv → step s = .next t → t.rowP ≠ s.rowP →
    (s.phase = .dwell ∧ s.tWaitEnd ≤ s.now ∧ t.rowP = if s.rowP + 1 = s.cfg.rows then 0 else s.rowP + 1) ∨
    (s.inputs.head? = some .reset ∧ t.rowP = 0)

/-- Rule R76 (d): while the block is BUSY, a register write of the host runs to a next state and cannot change the frame buffer, the
brightness, the scan pointer, the pins or the operation in progress. -/
def Obligations.HostCannotDisturbABusyBlock : Prop :=
  ∀ (s : State) (off : Nat) (v : Word) (rest : List Input), s.Inv → s.Busy → s.inputs = .write off v :: rest → off % 4 = 0 →
    off ≤ 0x7FC → ∃ t, step s = .next t ∧
      t.fb = s.fb ∧ t.brightness = s.brightness ∧ t.rowP = s.rowP ∧ t.rowOut = s.rowOut ∧ t.colOut = s.colOut ∧ t.op = s.op ∧
      t.phase = s.phase ∧ t.tWaitEnd = s.tWaitEnd ∧ t.dispDeadline = s.dispDeadline ∧ t.an = s.an ∧ t.result = s.result

/-- Rules R11, R34: the pin polarities reach nothing but the pin levels. Two instances that differ in them alone take the same steps. -/
def Obligations.PolarityReachesThePinsOnly : Prop :=
  ∀ (s : State) (row col : Bool),
    (∀ t, step s = .next t → step (s.withPolarity row col) = .next (t.withPolarity row col)) ∧
    (∀ f, step s = .fault f → step (s.withPolarity row col) = .fault f) ∧
    (∀ r, step s = .refused r → step (s.withPolarity row col) = .refused r)

/-- Rules R32, R289: nothing reads the output registers. Two states that differ in them alone take steps to states that differ in them
alone. -/
def Obligations.NothingDependsOnTheOutputs : Prop :=
  ∀ (s : State) (rows cols : List Bool),
    (∀ t, step s = .next t → ∃ rows' cols', step (s.withPins rows cols) = .next (t.withPins rows' cols')) ∧
    (∀ f, step s = .fault f → step (s.withPins rows cols) = .fault f) ∧
    (∀ r, step s = .refused r → step (s.withPins rows cols) = .refused r)

/-! ## Buffer commands, brightness, release (spec/42_brightness.md, spec/44_driver_short_ops.md) -/

/-- Rules R210, R212: CLEAR in READY. -/
def Obligations.ClearDarkensEverything : Prop :=
  ∀ s : State, s.Ready → ∃ t, exec .clear s = .next t ∧ ClearFrame s t ∧
    (∀ x y, t.pixel x y = false ∧ t.lit x y = false) ∧ t.fb.length = s.cfg.rows ∧ (∀ row ∈ t.fb, row.data = 0#8) ∧
    t.rowOut = List.replicate s.cfg.rows false ∧ t.colOut = List.replicate s.cfg.cols false ∧ t.result = .ok ∧
    t.cmdLast = 0x00000001#32

/-- Rule R214: ON in READY. A pixel of the matrix is set, and no other, and no output is touched; a coordinate out of range takes fault
entry, `y` checked first, and then nothing but the fault record and CMD_LAST changes. -/
def Obligations.OnSetsExactlyThatPixel : Prop :=
  ∀ (s : State) (x y : Nat), s.Inv → s.Ready →
    (x < s.cfg.cols → y < s.cfg.rows → ∃ t, exec (.on x y) s = .next t ∧ BufferFrame s t ∧
      (∀ a b, t.pixel a b = (decide (a = x ∧ b = y) || s.pixel a b)) ∧ t.result = .ok ∧
      t.cmdLast = BitVec.ofNat 32 (0x02 + 0x100 * x + 0x10000 * y)) ∧
    (s.cfg.rows ≤ y → exec (.on x y) s = .next { s with cmdLast := encode (.on x y), fault := true, faultCause := some .yRange }) ∧
    (y < s.cfg.rows → s.cfg.cols ≤ x →
      exec (.on x y) s = .next { s with cmdLast := encode (.on x y), fault := true, faultCause := some .xRange })

/-- Rule R216: OFF in READY. A pixel of the matrix is cleared, and no other, and no output is touched; a coordinate out of range faults as
for ON. -/
def Obligations.OffClearsExactlyThatPixel : Prop :=
  ∀ (s : State) (x y : Nat), s.Inv → s.Ready →
    (x < s.cfg.cols → y < s.cfg.rows → ∃ t, exec (.off x y) s = .next t ∧ BufferFrame s t ∧
      (∀ a b, t.pixel a b = (!decide (a = x ∧ b = y) && s.pixel a b)) ∧ t.result = .ok ∧
      t.cmdLast = BitVec.ofNat 32 (0x03 + 0x100 * x + 0x10000 * y)) ∧
    (s.cfg.rows ≤ y → exec (.off x y) s = .next { s with cmdLast := encode (.off x y), fault := true, faultCause := some .yRange }) ∧
    (y < s.cfg.rows → s.cfg.cols ≤ x →
      exec (.off x y) s = .next { s with cmdLast := encode (.off x y), fault := true, faultCause := some .xRange })

/-- Rule R284: fault entry, wherever a step takes it. It comes from READY by the write of a command word, which CMD_LAST then holds; it
records a cause, `fault_o` goes to 1, and nothing else changes. -/
def Obligations.FaultEntryIsPrecise : Prop :=
  ∀ s t : State, s.Inv → step s = .next t → s.fault = false → t.fault = true →
    s.Ready ∧ s.inputs.head? = some (.write 0x000 t.cmdLast) ∧ t.faultCause ≠ none ∧ t.faultOut = true ∧
    t = { s with inputs := s.inputs.tail, cmdLast := t.cmdLast, fault := true, faultCause := t.faultCause }

/-- Rules R218, R66, R67: APPLY in READY replaces the buffer by the frame at SRC_BASE, bit `7 - x` of byte `SRC_BASE + y` (modulo `2^32`)
becoming pixel (x, y), and touches no output. -/
def Obligations.ApplyLoadsTheFrameAtSrcBase : Prop :=
  ∀ s : State, s.Inv → s.Ready → ∃ t, exec .apply s = .next t ∧ BufferFrame s t ∧
    Frame.HasShape t.fb s.cfg.cols s.cfg.rows ∧ (∀ row ∈ t.fb, row.Canonical) ∧
    (∀ x < s.cfg.cols, ∀ y < s.cfg.rows, t.pixel x y = (s.srcByte (s.srcBase.toNat + y)).getLsbD (7 - x)) ∧
    t.result = .ok ∧ t.cmdLast = 0x00000004#32

/-- Rules R168, R169, R170: the brightness commands in READY write the clamped level, and nothing else but `result` and CMD_LAST. -/
def Obligations.BrightnessCommandsClampTheLevel : Prop :=
  ∀ (s : State) (v : Nat), s.Ready →
    exec (.setBrightness v) s = .next { s with
      brightness := if v ≤ 10 then v else 10, result := .ok, cmdLast := encode (.setBrightness v) } ∧
    exec (.incBrightness v) s = .next { s with
      brightness := if s.brightness + v ≤ 10 then s.brightness + v else 10, result := .ok, cmdLast := encode (.incBrightness v) } ∧
    exec (.decBrightness v) s = .next { s with
      brightness := if v ≤ s.brightness then s.brightness - v else 0, result := .ok, cmdLast := encode (.decBrightness v) }

/-- Rule R166: the dwell of each level, its values at 10, 0 and 5, never increasing in the level and always below one refresh tick. -/
def Obligations.DwellFallsWithBrightness : Prop :=
  ∀ c : Config, c.WellFormed →
    (∀ a ≤ 10, dwell c a = ((10 - a) * c.kDwell) / 10) ∧ dwell c 10 = 0 ∧ dwell c 0 = c.kDwell ∧ dwell c 5 = c.kDwell / 2 ∧
    (∀ a b, a ≤ b → dwell c b ≤ dwell c a) ∧ (∀ a, dwell c a ≤ c.kDwell ∧ dwell c a < c.refreshTick)

/-- Rules R226, R33: RELEASE in READY stops driving every pin and makes the block inert, and writes nothing else but `result` and CMD_LAST.
-/
def Obligations.ReleaseStopsDrivingThePins : Prop :=
  ∀ s : State, s.Ready → ∃ t, exec .release s = .next t ∧
    t = { s with oe := false, inert := true, result := .ok, cmdLast := 0x0000000E#32 } ∧
    (∀ n, t.rowPin n = none ∧ t.colPin n = none) ∧ ∀ x y, t.lit x y = false

/-! ## The row scanner (rules R220 to R223, R262) -/

/-- Rules R220, R221: RENDER in READY drives the columns of row `row_p` with every row inactive, for the dwell of the present brightness. -/
def Obligations.RenderStartsADarkDwell : Prop :=
  ∀ s : State, s.Inv → s.Ready → s.now + ((10 - s.brightness) * s.cfg.kDwell) / 10 < 2 ^ 64 →
    ∃ t, exec .render s = .next t ∧ RenderFrame s t ∧ t.DrivesRow s.rowP ∧
      t.tWaitEnd = s.now + ((10 - s.brightness) * s.cfg.kDwell) / 10 ∧ t.phase = .dwell ∧ t.op = .render ∧ t.result = .pending ∧
      t.cmdLast = 0x00000008#32 ∧ (∀ x y, t.lit x y = false)

/-- Rules R222, R262: `DwellEnd`, when it is the block's move and the dwell is over. The row whose columns are driven goes active, alone;
the pointer advances; a RENDER is over, a long operation waits one refresh tick. -/
def Obligations.DwellEndActivatesTheRow : Prop :=
  ∀ (s : State) (rest : List Input), s.Inv → s.inputs = .blockTurn :: rest → s.phase = .dwell →
    s.tWaitEnd ≤ s.now → (s.op = .render ∨ s.now + s.cfg.refreshTick < 2 ^ 64) →
    ∃ t, step s = .next t ∧
      t = { s with
        inputs := rest, rowOut := t.rowOut, rowP := t.rowP, op := t.op, phase := t.phase, tWaitEnd := t.tWaitEnd, result := t.result } ∧
      t.rowOut.length = s.cfg.rows ∧ (∀ y, t.rowOut.getD y false = decide (y = s.rowP)) ∧
      t.rowP = (if s.rowP + 1 = s.cfg.rows then 0 else s.rowP + 1) ∧
      (s.op = .render → t.Ready ∧ t.phase = .idle ∧ t.result = .ok ∧ t.tWaitEnd = s.tWaitEnd) ∧
      (s.op ≠ .render → t.op = s.op ∧ t.phase = .tick ∧ t.tWaitEnd = s.now + s.cfg.refreshTick ∧ t.result = s.result)

/-- Rule R223, for every picture: a RENDER issued in READY and left to run (the model's free run, assumption 4) for its dwell lights exactly
the set pixels of row `row_p` and leaves the pointer at the next row, the block READY again. -/
def Obligations.RenderShowsExactlyItsRow : Prop :=
  ∀ (s : State) (d : Nat), s.Inv → s.Ready → s.inputs = [] → d = ((10 - s.brightness) * s.cfg.kDwell) / 10 → s.now + d < 2 ^ 64 →
    ∃ s' t, exec .render s = .next s' ∧ Host.Core.run Sys2Proof.core (d + 1) s' = .next t ∧ t.Ready ∧ t.result = .ok ∧
      t.now = s.now + d ∧ t.fb = s.fb ∧ t.rowP = (s.rowP + 1) % s.cfg.rows ∧
      ∀ x y, t.lit x y = (decide (y = s.rowP) && s.pixel x y)

/-! ## The sequencer (spec/43_animation.md) -/

/-- Rules R182, R186: when construction answers `TooFast`, when it is refused, and the registers it writes otherwise. -/
def Obligations.ConstructionSucceedsExactlyWhenTimely : Prop :=
  ∀ (c : Config) (now : Nat) (kind : Kind) (base n : Word) (e : Effect) (d : Nat), c.WellFormed →
    (animNew c now kind base n e d = .tooFast ↔ n.toNat = 0 ∨ d < stepsOf c e n.toNat) ∧
    (animNew c now kind base n e d = .overflow ↔ ¬(n.toNat = 0 ∨ d < stepsOf c e n.toNat) ∧ 2 ^ 64 ≤ now + d) ∧
    (∀ a, animNew c now kind base n e d = .ok a →
      a.kind = kind ∧ a.base = base ∧ a.n = n ∧ a.effect = e ∧ a.sequence = 0 ∧ a.frameIndex = 0 ∧ a.index = 0 ∧
      a.length = stepsOf c e n.toNat ∧ a.wait = d / stepsOf c e n.toNat ∧ 0 < a.wait ∧ a.next = now)

/-- Rule R190, pixel by pixel: with the shift at `s`, column `x` shows column `x + s` of the present source frame while that is inside it,
and column `x + s - COLS` of the next one after that (dark after the last). -/
def Obligations.SlideJuxtaposesTwoFrames : Prop :=
  ∀ (c : Config) (m : Memory) (a : Anim), c.WellFormed → a.sequence < c.cols → ∀ x < c.cols, ∀ y < c.rows,
    Frame.pixel (animCurrent c m a) x y =
      if x + a.sequence < c.cols then Frame.pixel (srcFrame c m a.kind a.base a.frameIndex) (x + a.sequence) y
      else if a.frameIndex + 1 < a.n.toNat then
        Frame.pixel (srcFrame c m a.kind a.base (a.frameIndex + 1)) (x + a.sequence - c.cols) y
      else false

/-- Rules R194, R195: whatever the poll times, the frames applied are the events 0, 1, 2, … of the closed form, and after `k` of them the
registers are those of `k`. -/
def Obligations.AppliedFramesFollowTheClosedForm : Prop :=
  ∀ (c : Config) (m : Memory) (now : Nat) (kind : Kind) (base n : Word) (e : Effect) (d : Nat) (a : Anim) (times : List Nat),
    c.WellFormed → animNew c now kind base n e d = .ok a →
    let frames := (pollAll c m times a).1
    let after := (pollAll c m times a).2
    frames = (List.range frames.length).map (eventFrame c m a) ∧ frames.length ≤ stepsOf c e n.toNat ∧
    after.index = frames.length ∧ after.next = now + frames.length * a.wait ∧
    (e = .slide → after.frameIndex = frames.length / c.cols ∧ after.sequence = frames.length % c.cols) ∧
    (e = .none → after.frameIndex = frames.length ∧ after.sequence = 0)

/-- Rule R197 (a) and (b): polled often enough after the final deadline, an animation over `N` frames applies exactly `N * COLS` frames
under Slide and exactly `N` under None, and then answers `Done`. -/
def Obligations.AnimationAppliesExactlyItsSteps : Prop :=
  ∀ (c : Config) (m : Memory) (now : Nat) (kind : Kind) (base n : Word) (e : Effect) (d : Nat) (a : Anim) (times : List Nat),
    c.WellFormed → animNew c now kind base n e d = .ok a → (∀ t ∈ times, now + d ≤ t) → stepsOf c e n.toNat ≤ times.length →
    (pollAll c m times a).1.length = stepsOf c e n.toNat ∧
    ∀ t, now + d ≤ t → (animPoll c m t (pollAll c m times a).2).1 = .done

/-! ## Long operations (spec/45_driver_long_ops.md) -/

/-- Rules R242, R221: DISPLAY in READY applies the frame at SRC_BASE, takes the deadline, and drives the columns of the new row. -/
def Obligations.DisplayAppliesAndStartsRendering : Prop :=
  ∀ (s : State) (duration : Nat), s.Inv → s.Ready → duration = s.durationHi.toNat * 2 ^ 32 + s.durationLo.toNat →
    s.now + duration < 2 ^ 64 → s.now + dwell s.cfg s.brightness < 2 ^ 64 →
    ∃ t, exec .display s = .next t ∧ DisplayFrame s t ∧ Frame.HasShape t.fb s.cfg.cols s.cfg.rows ∧
      (∀ x < s.cfg.cols, ∀ y < s.cfg.rows, t.pixel x y = (s.srcByte (s.srcBase.toNat + y)).getLsbD (7 - x)) ∧
      t.DrivesRow s.rowP ∧ t.tWaitEnd = s.now + dwell s.cfg s.brightness ∧ t.dispDeadline = s.now + duration ∧ t.op = .display ∧
      t.phase = .dwell ∧ t.abortReq = false ∧ t.result = .pending ∧ t.cmdLast = 0x00000009#32

/-- Rules R186, R254 (SCROLL, SCROLL_SPEED, ANIMATE, ANIMATE_FRAMES): an empty source, or fewer ticks than steps, is `TooFast`, and then
nothing changes but `result` and CMD_LAST. -/
def Obligations.TooFastChangesNothingElse : Prop :=
  ∀ (s : State) (i : Instr) (kind : Kind) (e : Effect) (d : Nat), s.Ready → animateCall s i = some (kind, e, d) →
    (s.srcLen.toNat = 0 ∨ d < stepsOf s.cfg e s.srcLen.toNat) →
    exec i s = .next { s with cmdLast := encode i, result := .tooFast }

/-- Rules R254, R258, R186, R192 (SCROLL, SCROLL_SPEED, ANIMATE, ANIMATE_FRAMES): a timely animation applies the first source frame
unshifted in its acceptance step, drives its row `row_p`, and stands after its first event. -/
def Obligations.AnimateAppliesTheFirstFrame : Prop :=
  ∀ (s : State) (i : Instr) (kind : Kind) (e : Effect) (d : Nat), s.Inv → s.Ready → animateCall s i = some (kind, e, d) →
    s.srcLen.toNat ≠ 0 → stepsOf s.cfg e s.srcLen.toNat ≤ d → s.now + d < 2 ^ 64 → s.now + dwell s.cfg s.brightness < 2 ^ 64 →
    ∃ t, exec i s = .next t ∧ AnimateFrame s t ∧ Frame.HasShape t.fb s.cfg.cols s.cfg.rows ∧
      (∀ x < s.cfg.cols, ∀ y < s.cfg.rows, t.pixel x y = Frame.pixel (srcFrame s.cfg s.src kind s.srcBase 0) x y) ∧
      t.DrivesRow s.rowP ∧ t.tWaitEnd = s.now + dwell s.cfg s.brightness ∧ t.op = .animate ∧ t.phase = .dwell ∧
      t.abortReq = false ∧ t.result = .pending ∧ t.cmdLast = encode i ∧
      t.an.kind = kind ∧ t.an.effect = e ∧ t.an.base = s.srcBase ∧ t.an.n = s.srcLen ∧ t.an.index = 1 ∧
      t.an.length = stepsOf s.cfg e s.srcLen.toNat ∧ t.an.wait = d / stepsOf s.cfg e s.srcLen.toNat ∧
      t.an.next = s.now + d / stepsOf s.cfg e s.srcLen.toNat ∧
      (e = .slide → t.an.sequence = 1 % s.cfg.cols ∧ t.an.frameIndex = 1 / s.cfg.cols) ∧
      (e = .none → t.an.sequence = 0 ∧ t.an.frameIndex = 1)

/-- Rules R186, R242, R337 (U9): a command in READY whose time sum reaches `2^64` is refused. -/
def Obligations.TimeOverflowIsRefused : Prop :=
  ∀ s : State, s.Ready →
    (2 ^ 64 ≤ s.now + dwell s.cfg s.brightness → exec .render s = .refused .timeOverflow) ∧
    (2 ^ 64 ≤ s.now + (s.durationHi.toNat * 2 ^ 32 + s.durationLo.toNat) → exec .display s = .refused .timeOverflow) ∧
    (∀ i kind e d, animateCall s i = some (kind, e, d) → stepsOf s.cfg e s.srcLen.toNat ≠ 0 → stepsOf s.cfg e s.srcLen.toNat ≤ d →
      2 ^ 64 ≤ s.now + d → exec i s = .refused .timeOverflow)

/-- Rules R263, R260, R261: `TickEnd`, when it is the block's move and a DISPLAY is in progress. A latched ABORT wins; at or after the
deadline the block finishes dark; before it the next render begins. With no move pending it is the block's
move in the model's free run (assumption 4). -/
def Obligations.DisplayTickEndsInOneOfThreeWays : Prop :=
  ∀ (s : State) (rest : List Input), s.Inv → (s.inputs = .blockTurn :: rest ∨ (s.inputs = [] ∧ rest = [])) → s.phase = .tick →
    s.op = .display → s.now + dwell s.cfg s.brightness < 2 ^ 64 →
    (s.abortReq = true → step s = .next { s with
      inputs := rest, op := .none, phase := .idle, abortReq := false, result := .aborted }) ∧
    (s.abortReq = false → s.tWaitEnd ≤ s.now → s.dispDeadline ≤ s.now → ∃ t, step s = .next t ∧ t.Dark ∧
      t = { s with inputs := rest, fb := t.fb, rowOut := t.rowOut, colOut := t.colOut, op := .none, phase := .idle, result := .ok }) ∧
    (s.abortReq = false → s.tWaitEnd ≤ s.now → s.now < s.dispDeadline → ∃ t, step s = .next t ∧ t.DrivesRow s.rowP ∧
      t = { s with inputs := rest, rowOut := t.rowOut, colOut := t.colOut, phase := .dwell, tWaitEnd := s.now + dwell s.cfg s.brightness })

/-- Rules R258, R260, R261, R263, R192: `TickEnd`, when it is the block's move and an animation is in progress. A latched ABORT wins;
otherwise one poll decides: before the deadline of the next step the next render begins, at it the next frame of the closed form is applied
and its row driven, after the last step the block finishes dark. With no move pending it is the block's
move in the model's free run (assumption 4). -/
def Obligations.AnimationTickEndsInOneOfFourWays : Prop :=
  ∀ (s : State) (rest : List Input), s.Inv → (s.inputs = .blockTurn :: rest ∨ (s.inputs = [] ∧ rest = [])) → s.phase = .tick →
    s.op = .animate → s.now + dwell s.cfg s.brightness < 2 ^ 64 →
    (s.abortReq = true → step s = .next { s with
      inputs := rest, op := .none, phase := .idle, abortReq := false, result := .aborted }) ∧
    (s.abortReq = false → s.tWaitEnd ≤ s.now → s.now < s.an.next → ∃ t, step s = .next t ∧ t.DrivesRow s.rowP ∧
      t = { s with inputs := rest, rowOut := t.rowOut, colOut := t.colOut, phase := .dwell, tWaitEnd := s.now + dwell s.cfg s.brightness }) ∧
    (s.abortReq = false → s.tWaitEnd ≤ s.now → s.an.next ≤ s.now → s.an.index < s.an.length → ∃ t, step s = .next t ∧
      t.fb = eventFrame s.cfg s.src s.an s.an.index ∧ t.DrivesRow s.rowP ∧ t.an.index = s.an.index + 1 ∧
      t.an.next = s.an.next + s.an.wait ∧
      t = { s with
        inputs := rest, fb := t.fb, rowOut := t.rowOut, colOut := t.colOut, phase := .dwell, tWaitEnd := s.now + dwell s.cfg s.brightness,
        an := { s.an with sequence := t.an.sequence, frameIndex := t.an.frameIndex, index := t.an.index, next := t.an.next } }) ∧
    (s.abortReq = false → s.tWaitEnd ≤ s.now → s.an.next ≤ s.now → s.an.index = s.an.length → ∃ t, step s = .next t ∧ t.Dark ∧
      t = { s with inputs := rest, fb := t.fb, rowOut := t.rowOut, colOut := t.colOut, op := .none, phase := .idle, result := .ok })

/-- Rule R256: ABORT during a DISPLAY or an animation is latched and writes nothing else but CMD_LAST. -/
def Obligations.AbortIsLatched : Prop :=
  ∀ s : State, s.fault = false → s.inert = false → (s.op = .display ∨ s.op = .animate) →
    exec .abort s = .next { s with abortReq := true, cmdLast := 0x0000000F#32 }

/-- Rules R256, R261, R263: an operation with a latched ABORT, left to run (the model's free run, assumption 4), ends ABORTED after at most
the rest of the running dwell and two block steps, its buffer unchanged and never cleared. -/
def Obligations.LatchedAbortEndsTheOperation : Prop :=
  ∀ s : State, s.Inv → s.abortReq = true → s.inputs = [] → s.now + s.cfg.refreshTick < 2 ^ 64 → s.tWaitEnd + s.cfg.refreshTick < 2 ^ 64 →
    ∃ k t, k ≤ (s.tWaitEnd - s.now) + 2 ∧ Host.Core.run Sys2Proof.core k s = .next t ∧ t.Ready ∧ t.result = .aborted ∧ t.fb = s.fb ∧
      t.abortReq = false ∧ t.now = (if s.phase = .dwell then max s.now s.tWaitEnd else s.now)

/-- Rules R242, R264, R265, R266: a DISPLAY left to run (the model's free run, assumption 4) makes `max 1 (ceil (DURATION / P))` renders,
`P` the dwell plus one refresh tick, and ends READY, dark, with outcome OK, exactly that many periods after its acceptance. -/
def Obligations.DisplayRunsForItsDuration : Prop :=
  ∀ (s : State) (duration p n : Nat), s.Inv → s.Ready → s.inputs = [] →
    duration = s.durationHi.toNat * 2 ^ 32 + s.durationLo.toNat → p = dwell s.cfg s.brightness + s.cfg.refreshTick →
    n = max 1 ((duration + p - 1) / p) → s.now + n * p < 2 ^ 64 →
    ∃ s' t, exec .display s = .next s' ∧ Host.Core.run Sys2Proof.core (n * (p + 2)) s' = .next t ∧ t.Ready ∧ t.result = .ok ∧ t.Dark ∧
      t.now = s.now + n * p ∧ t.rowP = (s.rowP + n) % s.cfg.rows ∧ t.brightness = s.brightness ∧ t.srcBase = s.srcBase ∧
      t.srcLen = s.srcLen ∧ t.durationLo = s.durationLo ∧ t.durationHi = s.durationHi ∧ ∀ x y, t.lit x y = false

/-- Rules R264, R265, R266: a timely animation left to run (the model's free run, assumption 4) applies all its steps and ends READY, dark,
with outcome OK, after as many periods of `P` ticks as its steps need, one per period at most, and its requested time needs: `max steps
(ceil (steps * wait / P))`. -/
def Obligations.AnimationRunsToItsEnd : Prop :=
  ∀ (s : State) (i : Instr) (kind : Kind) (e : Effect) (d p n : Nat), s.Inv → s.Ready → s.inputs = [] →
    animateCall s i = some (kind, e, d) → s.srcLen.toNat ≠ 0 → stepsOf s.cfg e s.srcLen.toNat ≤ d → s.now + d < 2 ^ 64 →
    p = dwell s.cfg s.brightness + s.cfg.refreshTick →
    n = max (stepsOf s.cfg e s.srcLen.toNat)
      ((stepsOf s.cfg e s.srcLen.toNat * (d / stepsOf s.cfg e s.srcLen.toNat) + p - 1) / p) → s.now + n * p < 2 ^ 64 →
    ∃ s' t, exec i s = .next s' ∧ Host.Core.run Sys2Proof.core (n * (p + 2)) s' = .next t ∧ t.Ready ∧ t.result = .ok ∧ t.Dark ∧
      t.now = s.now + n * p ∧ t.rowP = (s.rowP + n) % s.cfg.rows ∧ t.an.index = stepsOf s.cfg e s.srcLen.toNat ∧
      t.brightness = s.brightness ∧ ∀ x y, t.lit x y = false

/-! ## Registers and reset (spec/10_state.md, spec/70_reset_and_hazards.md) -/

/-- Rule R43: the STATUS word, field by field, as a number. -/
def Obligations.StatusWordHoldsItsFields : Prop :=
  ∀ s : State, s.statusWord.toNat =
    (if s.op = .none then 0 else 1) + (if s.fault then 2 else 0) + (if s.inert then 4 else 0) + (if s.reject then 8 else 0) +
    16 * (match s.result with | .none => 0 | .ok => 1 | .tooFast => 2 | .aborted => 3 | .pending => 4) +
    256 * (match s.faultCause with | none => 0 | some .yRange => 1 | some .xRange => 2) +
    4096 *
      (match s.rejectCause with
        | none => 0
        | some .busy => 1
        | some .illegalOpcode => 2
        | some .reservedNonzero => 3
        | some .faulted => 4
        | some .inert => 5
        | some .notAbortable => 6)

/-- Rules R42, R43, R44, R45, R46, R47, R48, R49, R71, R73: what a register read returns, and that it changes nothing but what the host has
read. -/
def Obligations.RegisterReadsReturnTheMap : Prop :=
  ∀ (s : State) (off : Nat) (rest : List Input), s.Inv → s.inputs = .read off :: rest → off % 4 = 0 → off ≤ 0x7FC →
    ∃ v : Word, step s = .next { s with inputs := rest, readData := some v } ∧
      (off = 0x000 → v = s.cmdLast) ∧ (off = 0x004 → v = s.statusWord) ∧ (off = 0x008 → v = s.srcBase) ∧
      (off = 0x00C → v = s.srcLen) ∧ (off = 0x010 → v = s.durationLo) ∧ (off = 0x014 → v = s.durationHi) ∧
      (off = 0x018 → v.toNat = s.brightness) ∧ (off = 0x01C → v.toNat = s.rowP) ∧
      (off = 0x020 → v.toNat = s.cfg.cols + 256 * s.cfg.rows) ∧
      (∀ y < s.cfg.rows, off = 0x400 + 4 * y → v.toNat < 256 ∧ ∀ x < 8, v.getLsbD (7 - x) = s.pixel x y) ∧
      (0x020 < off → (off < 0x400 ∨ 0x400 + 4 * s.cfg.rows ≤ off) → v = 0#32)

/-- Rules R43, R44, R45, R71: what a register write at an offset other than CMD does, in every operating condition. -/
def Obligations.RegisterWritesFollowTheMap : Prop :=
  ∀ (s : State) (off : Nat) (v : Word) (rest : List Input), s.inputs = .write off v :: rest → off % 4 = 0 → off ≤ 0x7FC →
    (off = 0x004 → v.getLsbD 3 = true → step s = .next { s with inputs := rest, reject := false, rejectCause := none }) ∧
    (off = 0x004 → v.getLsbD 3 = false → step s = .next { s with inputs := rest }) ∧
    (off = 0x008 → step s = .next { s with inputs := rest, srcBase := v }) ∧
    (off = 0x00C → step s = .next { s with inputs := rest, srcLen := v }) ∧
    (off = 0x010 → step s = .next { s with inputs := rest, durationLo := v }) ∧
    (off = 0x014 → step s = .next { s with inputs := rest, durationHi := v }) ∧
    (0x018 ≤ off → step s = .next { s with inputs := rest })

/-- Rule R71: an access off a word boundary, or narrower than a word, is refused by name. That an offset above 0x7FC, which rule R61 does not
give the port, faults with `offsetOutsideReg`, and does so before the alignment is looked at, is the model's choice (assumption 11). -/
def Obligations.InexpressibleAccessesStop : Prop :=
  ∀ (s : State) (off bytes : Nat) (v : Word) (rest : List Input),
    ((s.inputs = .write off v :: rest ∨ s.inputs = .read off :: rest) →
      (0x7FC < off → step s = .fault .offsetOutsideReg) ∧ (off ≤ 0x7FC → off % 4 ≠ 0 → step s = .refused .unalignedAccess)) ∧
    (s.inputs = .narrow off bytes :: rest → step s = .refused .narrowAccess)

/-- Rules R50, R320, R321: the reset input, in any state, sets every piece of the block's state to its reset value in one step and touches
neither the parameters nor the source memory. The time, the inputs still to come and the word last read are the model's surroundings
(assumptions 1, 4, 5). -/
def Obligations.ResetInputRestoresTheResetState : Prop :=
  ∀ (s : State) (rest : List Input), s.inputs = .reset :: rest → ∃ t, step s = .next t ∧ t.Ready ∧
    t.fb = Frame.empty s.cfg.cols s.cfg.rows ∧ (∀ x y, t.pixel x y = false ∧ t.lit x y = false) ∧ t.rowP = 0 ∧ t.brightness = 5 ∧
    t.rowOut = List.replicate s.cfg.rows false ∧ t.colOut = List.replicate s.cfg.cols false ∧ t.oe = true ∧ t.srcBase = 0#32 ∧
    t.srcLen = 0#32 ∧ t.durationLo = 0#32 ∧ t.durationHi = 0#32 ∧ t.cmdLast = 0#32 ∧ t.statusWord = 0#32 ∧ t.reject = false ∧
    t.result = .none ∧ t.faultCause = none ∧ t.rejectCause = none ∧ t.phase = .idle ∧
    t.abortReq = false ∧ t.tWaitEnd = 0 ∧ t.dispDeadline = 0 ∧ t.an = ⟨.frames, 0#32, 0#32, .none, 0, 0, 0, 0, 0, 0⟩ ∧
    t.cfg = s.cfg ∧ t.src = s.src

/-- Rules R33, R34: the level of each pin. -/
def Obligations.PinLevelsFollowThePolarity : Prop :=
  ∀ (s : State) (n : Nat) (active : Bool),
    (s.oe = true → s.rowOut[n]? = some active → s.rowPin n = some (decide (active = s.cfg.rowActiveHigh))) ∧
    (s.oe = true → s.colOut[n]? = some active → s.colPin n = some (decide (active = s.cfg.colActiveHigh))) ∧
    (s.oe = false → s.rowPin n = none ∧ s.colPin n = none)

/-! ## The datapath (spec/40_bitmap.md, spec/41_frame.md) -/

/-- Rule R134 (a): `set` makes `is_set` true and `clear` makes it false, at every legal index, and an index outside the field is
`FAULT_X_RANGE` for all three (rules R125, R126, R127). -/
def Obligations.SetAndClearDecideIsSet : Prop :=
  ∀ (m : Bitmap) (bit : Nat), 1 ≤ m.nbits → m.nbits ≤ 8 →
    (bit < m.nbits → (∃ m', m.set bit = .ok m' ∧ m'.isSet bit = .ok true) ∧ (∃ m', m.clear bit = .ok m' ∧ m'.isSet bit = .ok false)) ∧
    (m.nbits ≤ bit → m.set bit = .error .xRange ∧ m.clear bit = .error .xRange ∧ m.isSet bit = .error .xRange)

/-- Rule R134 (b): `or` and `and` are commutative and associative over bitmaps of one width, and are refused over unequal widths (rules
R131, R132). -/
def Obligations.CombineIsCommutativeAndAssociative : Prop :=
  ∀ a b c : Bitmap,
    (a.nbits = b.nbits → a.or b = b.or a ∧ a.and b = b.and a) ∧
    (a.nbits = b.nbits → b.nbits = c.nbits → (a.or b).bind (fun m => m.or c) = (b.or c).bind (fun m => a.or m) ∧
      (a.and b).bind (fun m => m.and c) = (b.and c).bind (fun m => a.and m)) ∧
    (a.nbits ≠ b.nbits → a.or b = none ∧ a.and b = none)

/-- Rule R134 (c), made precise as there: a shift left by `k` and back clears the `k` leftmost pixels, a shift right by `k` and back the `k`
rightmost. -/
def Obligations.ShiftThereAndBackClearsTheEdge : Prop :=
  ∀ (m : Bitmap) (k b : Nat), m.nbits ≤ 8 → m.Canonical → b < m.nbits →
    ((m.shiftLeft k).shiftRight k).pixel b = (decide (k ≤ b) && m.pixel b) ∧
    ((m.shiftRight k).shiftLeft k).pixel b = (decide (b + k < m.nbits) && m.pixel b)

/-- Rules R142, R143, R144: the pixel primitives of a frame fault on `y` first, then on `x`, and answer otherwise. -/
def Obligations.FramePrimitivesCheckYThenX : Prop :=
  ∀ (f : Frame) (w h x y : Nat), Frame.HasShape f w h →
    (h ≤ y → Frame.setPixel f x y = .error .yRange ∧ Frame.clearPixel f x y = .error .yRange ∧ Frame.isSet f x y = .error .yRange) ∧
    (y < h → w ≤ x → Frame.setPixel f x y = .error .xRange ∧ Frame.clearPixel f x y = .error .xRange ∧
      Frame.isSet f x y = .error .xRange) ∧
    (y < h → x < w → (∃ f', Frame.setPixel f x y = .ok f') ∧ (∃ f', Frame.clearPixel f x y = .ok f') ∧
      Frame.isSet f x y = .ok (Frame.pixel f x y))
end

