-- ==== Sys2Proof/Laws/Bitmap.lean ====
section
/-! SUPPORT. The row word and the frame read pixel by pixel: one lemma per primitive, which proofs cite instead of unfolding it. -/

namespace Sys2Proof

theorem bitMask_getLsbD (b j : Nat) : (bitMask b).getLsbD j = decide (b ≤ 7 ∧ j = 7 - b) := by
  have h : ∀ b < 8, ∀ j < 8, (bitMask b).getLsbD j = decide (b ≤ 7 ∧ j = 7 - b) := by decide
  by_cases hj : j < 8
  · by_cases hb : b < 8
    · exact h b hb j hj
    · have : bitMask b = 0#8 := by
        unfold bitMask; apply BitVec.eq_of_toNat_eq
        simp only [BitVec.toNat_ushiftRight, Nat.shiftRight_eq_div_pow, BitVec.toNat_ofNat]
        apply Nat.div_eq_of_lt
        calc 0x80 % 2 ^ 8 < 2 ^ 8 := by norm_num
          _ ≤ 2 ^ b := Nat.pow_le_pow_right (by norm_num) (by omega)
      rw [this]; simp; omega
  · rw [BitVec.getLsbD_of_ge _ _ (by omega)]; symm; simp; omega

theorem fieldMask_getLsbD (n j : Nat) : (fieldMask n).getLsbD j = decide (j < 8 ∧ 8 ≤ j + n) := by
  unfold fieldMask
  rw [BitVec.getLsbD_shiftLeft]
  by_cases hj : j < 8
  · have h : ∀ k < 8, (0xFF#8).getLsbD k = true := by decide
    by_cases hn : j < 8 - n
    · simp [hj, hn]; omega
    · simp [hj, hn, h (j - (8 - n)) (by omega)]; omega
  · simp [hj]

/-- A pixel test reads one storage bit (rule R122). -/
theorem pixel_eq (m : Bitmap) (b : Nat) (hb : b < 8) : m.pixel b = m.data.getLsbD (7 - b) := by
  unfold Bitmap.pixel
  by_cases h : m.data.getLsbD (7 - b)
  · rw [h, decide_eq_true_iff]
    intro h0
    have := congrArg (fun v => v.getLsbD (7 - b)) h0
    simp [bitMask_getLsbD, h] at this
    omega
  · simp only [Bool.not_eq_true] at h
    rw [h, decide_eq_false_iff_not, not_not]
    apply BitVec.eq_of_getLsbD_eq
    intro i hi
    simp only [BitVec.getLsbD_and, bitMask_getLsbD, BitVec.getLsbD_zero]
    by_cases hi' : i = 7 - b
    · simp [hi', h]
    · simp [hi']

theorem pixel_ge (m : Bitmap) (b : Nat) (hb : 8 ≤ b) : m.pixel b = false := by
  have : bitMask b = 0#8 := by
    apply BitVec.eq_of_getLsbD_eq; intro i hi; rw [bitMask_getLsbD]; simp; omega
  simp [Bitmap.pixel, this]

/-- Canonical form, bit by bit: every bit below the field is 0 (rule R121). -/
theorem canonical_iff (m : Bitmap) : m.Canonical ↔ ∀ j, j + m.nbits < 8 → m.data.getLsbD j = false := by
  constructor
  · intro h j hj
    have z := congrArg (fun v => v.getLsbD j) h
    simp only [BitVec.getLsbD_and, BitVec.getLsbD_not, fieldMask_getLsbD] at z
    have hj8 : j < 8 := by omega
    simpa [hj8, show ¬(8 ≤ j + m.nbits) by omega] using z
  · intro h
    apply BitVec.eq_of_getLsbD_eq
    intro j hj
    simp only [BitVec.getLsbD_and, BitVec.getLsbD_not, fieldMask_getLsbD, BitVec.getLsbD_zero]
    by_cases hjn : 8 ≤ j + m.nbits
    · simp [hj, hjn]
    · simp [h j (by omega)]

/-- Two bitmaps of one width at most 8, both canonical, are equal when their pixels are (rule R133). -/
theorem Bitmap.ext_pixel {m m' : Bitmap} (hn : m.nbits = m'.nbits) (hle : m.nbits ≤ 8) (hc : m.Canonical) (hc' : m'.Canonical)
    (h : ∀ b < m.nbits, m.pixel b = m'.pixel b) : m = m' := by
  obtain ⟨d, n⟩ := m
  obtain ⟨d', n'⟩ := m'
  simp only at hn hle h
  subst hn
  congr 1
  apply BitVec.eq_of_getLsbD_eq
  intro j hj
  by_cases hjn : 8 ≤ j + n
  · have := h (7 - j) (by omega)
    rw [pixel_eq _ _ (by omega), pixel_eq _ _ (by omega)] at this
    simpa [show 7 - (7 - j) = j by omega] using this
  · rw [(canonical_iff _).mp hc j (by simp only; omega), (canonical_iff _).mp hc' j (by simp only; omega)]

theorem ofStorage_canonical (n : Nat) (d : Byte) : (Bitmap.ofStorage n d).Canonical := by
  rw [canonical_iff]; intro j hj
  simp only [Bitmap.ofStorage] at hj ⊢
  simp [BitVec.getLsbD_and, fieldMask_getLsbD]; omega

@[simp] theorem ofStorage_nbits (n : Nat) (d : Byte) : (Bitmap.ofStorage n d).nbits = n := rfl
@[simp] theorem empty_nbits (n : Nat) : (Bitmap.empty n).nbits = n := rfl
@[simp] theorem shiftLeft_nbits (m : Bitmap) (k : Nat) : (m.shiftLeft k).nbits = m.nbits := rfl
@[simp] theorem shiftRight_nbits (m : Bitmap) (k : Nat) : (m.shiftRight k).nbits = m.nbits := rfl
@[simp] theorem orRow_nbits (m m' : Bitmap) : (m.orRow m').nbits = m.nbits := rfl

/-- A row entering the block shows bit `7 - b` of its storage byte at index `b` (rules R67, R122). -/
theorem ofStorage_pixel (n : Nat) (d : Byte) (b : Nat) (hb : b < n) (hn : n ≤ 8) :
    (Bitmap.ofStorage n d).pixel b = d.getLsbD (7 - b) := by
  rw [pixel_eq _ _ (by omega)]
  simp [Bitmap.ofStorage, fieldMask_getLsbD]; omega

theorem empty_pixel (n b : Nat) : (Bitmap.empty n).pixel b = false := by simp [Bitmap.pixel, Bitmap.empty]

theorem empty_canonical (n : Nat) : (Bitmap.empty n).Canonical := by simp [Bitmap.Canonical, Bitmap.empty]

/-- `set` on a legal index (rule R125). -/
theorem set_ok (m : Bitmap) (b : Nat) (hb : b < m.nbits) : m.set b = .ok ⟨m.data ||| bitMask b, m.nbits⟩ := by
  simp [Bitmap.set, Nat.not_le.mpr hb]

/-- `clear` on a legal index (rule R126). -/
theorem clear_ok (m : Bitmap) (b : Nat) (hb : b < m.nbits) : m.clear b = .ok ⟨m.data &&& ~~~bitMask b, m.nbits⟩ := by
  simp [Bitmap.clear, Nat.not_le.mpr hb]

theorem set_error (m : Bitmap) (b : Nat) (hb : m.nbits ≤ b) : m.set b = .error .xRange := by simp [Bitmap.set, hb]

theorem clear_error (m : Bitmap) (b : Nat) (hb : m.nbits ≤ b) : m.clear b = .error .xRange := by simp [Bitmap.clear, hb]

/-- What `set` leaves: that pixel on, the others as they were, the row canonical (rule R125). -/
theorem set_spec {m m' : Bitmap} {b : Nat} (h : m.set b = .ok m') (hn : m.nbits ≤ 8) :
    b < m.nbits ∧ m'.nbits = m.nbits ∧ (m.Canonical → m'.Canonical) ∧ ∀ j < m.nbits, m'.pixel j = (decide (j = b) || m.pixel j) := by
  by_cases hb : b < m.nbits
  · rw [set_ok m b hb] at h
    cases h
    refine ⟨hb, rfl, ?_, ?_⟩
    · rw [canonical_iff, canonical_iff]; intro hc j hj
      simp only at hj ⊢
      simp [BitVec.getLsbD_or, hc j hj, bitMask_getLsbD]; omega
    · intro j hj
      rw [pixel_eq _ _ (by omega), pixel_eq _ _ (by omega)]
      simp only [BitVec.getLsbD_or, bitMask_getLsbD]
      by_cases hjb : j = b
      · subst hjb; simp; omega
      · simp [hjb]; omega
  · rw [set_error m b (by omega)] at h; cases h

/-- What `clear` leaves: that pixel off, the others as they were, the row canonical (rule R126). -/
theorem clear_spec {m m' : Bitmap} {b : Nat} (h : m.clear b = .ok m') (hn : m.nbits ≤ 8) :
    b < m.nbits ∧ m'.nbits = m.nbits ∧ (m.Canonical → m'.Canonical) ∧ ∀ j < m.nbits, m'.pixel j = (!decide (j = b) && m.pixel j) := by
  by_cases hb : b < m.nbits
  · rw [clear_ok m b hb] at h
    cases h
    refine ⟨hb, rfl, ?_, ?_⟩
    · rw [canonical_iff, canonical_iff]; intro hc j hj
      simp only at hj ⊢
      simp [BitVec.getLsbD_and, hc j hj]
    · intro j hj
      rw [pixel_eq _ _ (by omega), pixel_eq _ _ (by omega)]
      simp only [BitVec.getLsbD_and, BitVec.getLsbD_not, bitMask_getLsbD]
      by_cases hjb : j = b
      · subst hjb; simp; omega
      · have : ¬(7 - j = 7 - b) := by omega
        simp [hjb, this, show 7 - j < 8 by omega]
  · rw [clear_error m b (by omega)] at h; cases h

/-- What `shift_left` shows at an index (rule R129). -/
theorem shiftLeft_pixel (m : Bitmap) (k b : Nat) (hc : m.Canonical) (hb : b < m.nbits) (hn : m.nbits ≤ 8) :
    (m.shiftLeft k).pixel b = (decide (b + k < m.nbits) && m.pixel (b + k)) := by
  rw [pixel_eq _ _ (by omega)]
  simp only [Bitmap.shiftLeft, BitVec.getLsbD_shiftLeft]
  by_cases hk : b + k < m.nbits
  · rw [pixel_eq _ _ (by omega)]
    have h1 : ¬(7 - b < k) := by omega
    simp [h1, hk, show 7 - b < 8 by omega, show 7 - b - k = 7 - (b + k) by omega]
  · by_cases h1 : 7 - b < k
    · simp [h1, hk]
    · simp [h1, hk, show 7 - b < 8 by omega]
      exact (canonical_iff m).mp hc _ (by omega)

/-- What `shift_right` shows at an index (rule R130). -/
theorem shiftRight_pixel (m : Bitmap) (k b : Nat) (hb : b < m.nbits) (hn : m.nbits ≤ 8) :
    (m.shiftRight k).pixel b = (decide (k ≤ b) && m.pixel (b - k)) := by
  rw [pixel_eq _ _ (by omega)]
  simp only [Bitmap.shiftRight, BitVec.getLsbD_and, BitVec.getLsbD_ushiftRight, fieldMask_getLsbD]
  by_cases hk : k ≤ b
  · rw [pixel_eq _ _ (by omega)]
    simp [hk, show k + (7 - b) = 7 - (b - k) by omega]; omega
  · rw [BitVec.getLsbD_of_ge m.data _ (by omega)]; simp [hk]

theorem shiftLeft_canonical (m : Bitmap) (k : Nat) (hc : m.Canonical) : (m.shiftLeft k).Canonical := by
  rw [canonical_iff] at hc ⊢
  intro j hj
  simp only [Bitmap.shiftLeft] at hj ⊢
  rw [BitVec.getLsbD_shiftLeft]
  by_cases h : j < k
  · simp [h]
  · simp [hc (j - k) (by omega)]

theorem shiftRight_canonical (m : Bitmap) (k : Nat) : (m.shiftRight k).Canonical := by
  rw [canonical_iff]
  intro j hj
  simp only [Bitmap.shiftRight] at hj ⊢
  simp [BitVec.getLsbD_and, fieldMask_getLsbD]; omega

theorem orRow_canonical (m m' : Bitmap) (hn : m.nbits = m'.nbits) (hc : m.Canonical) (hc' : m'.Canonical) :
    (m.orRow m').Canonical := by
  rw [canonical_iff] at hc hc' ⊢
  intro j hj
  simp only [Bitmap.orRow] at hj ⊢
  simp [BitVec.getLsbD_or, hc j hj, hc' j (by omega)]

theorem orRow_pixel (m m' : Bitmap) (b : Nat) : (m.orRow m').pixel b = (m.pixel b || m'.pixel b) := by
  by_cases hb : b < 8
  · rw [pixel_eq _ _ hb, pixel_eq _ _ hb, pixel_eq _ _ hb]; simp [Bitmap.orRow]
  · rw [pixel_ge _ _ (by omega), pixel_ge _ _ (by omega), pixel_ge _ _ (by omega)]; rfl

end Sys2Proof
end

