-- ==== Sys2Proof/Laws/Decode.lean ====
section
/-! SUPPORT. The command word as a number, and its fields; the lemmas proofs about decoding and encoding cite. -/

namespace Sys2Proof

theorem opcField_eq (w : Word) : opcField w = w.toNat % 256 := by
  simp [opcField, BitVec.extractLsb'_toNat]

theorem aField_eq (w : Word) : aField w = w.toNat / 256 % 256 := by
  simp [aField, BitVec.extractLsb'_toNat, Nat.shiftRight_eq_div_pow]

theorem bField_eq (w : Word) : bField w = w.toNat / 65536 % 256 := by
  simp [bField, BitVec.extractLsb'_toNat, Nat.shiftRight_eq_div_pow]

theorem effectField_eq (w : Word) : effectField w = if w.toNat / 256 % 2 = 1 then .slide else .none := by
  simp [effectField, BitVec.getLsbD, Nat.testBit, Nat.shiftRight_eq_div_pow]

/-- A word has no bit above the low `k` exactly when it is a number below `2^k`: the form of line 4 of rule R96. -/
theorem and_not_low_eq_zero {k : Nat} (w : Word) :
    w &&& ~~~(BitVec.ofNat 32 (2 ^ k - 1)) = 0#32 ↔ w.toNat < 2 ^ k := by
  constructor
  · intro h
    apply Nat.lt_pow_two_of_testBit
    intro i hi
    by_cases hi32 : i < 32
    · have z := congrArg (fun v => v.getLsbD i) h
      simp only [BitVec.getLsbD_and, BitVec.getLsbD_not, BitVec.getLsbD_ofNat, Nat.testBit_two_pow_sub_one] at z
      simpa [hi32, show ¬ i < k by omega, BitVec.getLsbD] using z
    · exact Nat.testBit_lt_two_pow (lt_of_lt_of_le w.isLt (Nat.pow_le_pow_right (by norm_num) (by omega)))
  · intro h
    apply BitVec.eq_of_getLsbD_eq
    intro i hi
    simp only [BitVec.getLsbD_and, BitVec.getLsbD_not, BitVec.getLsbD_ofNat, Nat.testBit_two_pow_sub_one]
    by_cases hik : i < k
    · simp [hi, hik]
    · have : w.getLsbD i = false :=
        Nat.testBit_lt_two_pow (lt_of_lt_of_le h (Nat.pow_le_pow_right (by norm_num) (by omega)))
      simp [this]

/-- The number of low bits a format uses. -/
def Format.width : Format → Nat
  | .n => 8
  | .a => 16
  | .xy => 24
  | .e => 9

theorem reserved_zero_iff (f : Format) (w : Word) : w &&& ~~~f.fieldMask = 0#32 ↔ w.toNat < 2 ^ f.width := by
  cases f
  · exact and_not_low_eq_zero (k := 8) w
  · exact and_not_low_eq_zero (k := 16) w
  · exact and_not_low_eq_zero (k := 24) w
  · exact and_not_low_eq_zero (k := 9) w

/-- The format of a command (rule R94). -/
def Instr.format : Instr → Format
  | .clear => .n
  | .on _ _ => .xy
  | .off _ _ => .xy
  | .apply => .n
  | .setBrightness _ => .a
  | .incBrightness _ => .a
  | .decBrightness _ => .a
  | .render => .n
  | .display => .n
  | .scroll => .n
  | .scrollSpeed => .n
  | .animate _ => .e
  | .animateFrames _ => .e
  | .release => .n
  | .abort => .n

/-- The command word as a number (rule R91). -/
theorem encode_toNat (i : Instr) : (encode i).toNat = (i.operandB % 256) * 65536 + (i.operandA % 256) * 256 + i.opcode := by
  have ho : i.opcode < 256 := by cases i <;> simp [Instr.opcode]
  simp only [encode, BitVec.toNat_append, BitVec.toNat_ofNat]
  have e8 : (2 : Nat) ^ 8 = 256 := by norm_num
  rw [e8, Nat.mod_eq_of_lt ho]
  rw [Nat.shiftLeft_eq, Nat.shiftLeft_eq, Nat.shiftLeft_eq, e8]
  have h1 : ∀ a b : Nat, b < 256 → a * 256 ||| b = a * 256 + b := by
    intro a b hb
    have h := Nat.two_pow_add_eq_or_of_lt (i := 8) (b := b) (by simpa using hb) a
    rw [e8, Nat.mul_comm 256 a] at h
    exact h.symm
  rw [h1 (0 % 256), h1 ((0 % 256) * 256 + _), h1 _ _ ho]
  all_goals omega

/-- What a decoded word is made of: its opcode row, and the bound line 4 of rule R96 puts on it. -/
theorem decodeWord_ok {w : Word} {i : Instr} (h : decodeWord w = .ok i) :
    ∃ f, opcodeMap w = some (f, i) ∧ w.toNat < 2 ^ f.width := by
  unfold decodeWord at h
  split at h
  · cases h
  · next f j hm =>
    split at h
    · cases h
    · next hz => cases h; exact ⟨f, hm, (reserved_zero_iff f w).mp (by simpa using hz)⟩

theorem decodeWord_of_map {w : Word} {f : Format} {i : Instr} (h : opcodeMap w = some (f, i)) (hw : w.toNat < 2 ^ f.width) :
    decodeWord w = .ok i := by
  simp [decodeWord, h, (reserved_zero_iff f w).mpr hw]

end Sys2Proof
end

