-- ==== Sys2Proof/Laws/Frame.lean ====
section
/-! SUPPORT. Frames: shape, canonical rows and pixels of every frame operation (rules R140 to R147). -/

namespace Sys2Proof

/-- Every row of the frame is canonical (rules R121, R140). -/
abbrev Frame.Canonical (f : Frame) : Prop := ∀ row ∈ f, row.Canonical

theorem Frame.HasShape.nbits_getElem {f : Frame} {x y : Nat} (h : Frame.HasShape f x y) (i : Nat) (hi : i < f.length) :
    (f[i]).nbits = x := h.2 _ (List.getElem_mem hi)

/-- A pixel inside a frame of known shape. -/
theorem Frame.pixel_of_lt {f : Frame} {w h : Nat} (hs : Frame.HasShape f w h) {x y : Nat} (hx : x < w) (hy : y < f.length) :
    Frame.pixel f x y = (f[y]).pixel x := by
  simp [Frame.pixel, List.getElem?_eq_getElem hy, hs.nbits_getElem y hy, hx]

/-- A pixel outside the frame is off. -/
theorem Frame.pixel_of_ge {f : Frame} {w h : Nat} (hs : Frame.HasShape f w h) {x y : Nat} (hxy : w ≤ x ∨ h ≤ y) :
    Frame.pixel f x y = false := by
  unfold Frame.pixel
  by_cases hy : y < f.length
  · have := hs.1
    simp [List.getElem?_eq_getElem hy, hs.nbits_getElem y hy]; omega
  · simp [List.getElem?_eq_none (Nat.le_of_not_lt hy)]

theorem Frame.empty_shape (x y : Nat) : Frame.HasShape (Frame.empty x y) x y := by
  simp [Frame.HasShape, Frame.empty]

theorem Frame.empty_canonical (x y : Nat) : Frame.Canonical (Frame.empty x y) := by
  intro row h; rw [List.eq_of_mem_replicate h]; exact Sys2Proof.empty_canonical x

/-- No pixel of the empty frame is set (rule R141). -/
theorem Frame.empty_pixel (x y a b : Nat) : Frame.pixel (Frame.empty x y) a b = false := by
  unfold Frame.pixel Frame.empty
  by_cases h : b < y
  · simp [h, Sys2Proof.empty_pixel]
  · simp [h]

/-- A frame mapped from row numbers by `ofStorage`: what every frame that enters the block is (rules R13, R67). -/
theorem Frame.ofRows_shape (x y : Nat) (d : Nat → Byte) :
    Frame.HasShape ((List.range y).map (fun r => Bitmap.ofStorage x (d r))) x y := by
  constructor
  · simp
  · intro m hm
    obtain ⟨r, -, rfl⟩ := List.mem_map.mp hm; rfl

theorem Frame.ofRows_canonical (x y : Nat) (d : Nat → Byte) :
    Frame.Canonical ((List.range y).map (fun r => Bitmap.ofStorage x (d r))) := by
  intro m hm
  obtain ⟨r, -, rfl⟩ := List.mem_map.mp hm
  exact ofStorage_canonical x (d r)

theorem Frame.ofRows_pixel (x y : Nat) (d : Nat → Byte) (hx8 : x ≤ 8) {a b : Nat} (ha : a < x) (hb : b < y) :
    Frame.pixel ((List.range y).map (fun r => Bitmap.ofStorage x (d r))) a b = (d b).getLsbD (7 - a) := by
  rw [Frame.pixel_of_lt (Frame.ofRows_shape x y d) ha (by simpa using hb)]
  simp [ofStorage_pixel x (d b) a ha hx8]

theorem Frame.shiftLeft_shape {f : Frame} {x y : Nat} (h : Frame.HasShape f x y) (n : Nat) :
    Frame.HasShape (Frame.shiftLeft f n) x y := by
  refine ⟨by simpa [Frame.shiftLeft] using h.1, ?_⟩
  intro m hm
  obtain ⟨r, hr, rfl⟩ := List.mem_map.mp hm
  exact h.2 r hr

theorem Frame.shiftRight_shape {f : Frame} {x y : Nat} (h : Frame.HasShape f x y) (n : Nat) :
    Frame.HasShape (Frame.shiftRight f n) x y := by
  refine ⟨by simpa [Frame.shiftRight] using h.1, ?_⟩
  intro m hm
  obtain ⟨r, hr, rfl⟩ := List.mem_map.mp hm
  exact h.2 r hr

theorem Frame.shiftLeft_canonical {f : Frame} (h : Frame.Canonical f) (n : Nat) : Frame.Canonical (Frame.shiftLeft f n) := by
  intro m hm
  obtain ⟨r, hr, rfl⟩ := List.mem_map.mp hm
  exact Sys2Proof.shiftLeft_canonical r n (h r hr)

theorem Frame.shiftRight_canonical (f : Frame) (n : Nat) : Frame.Canonical (Frame.shiftRight f n) := by
  intro m hm
  obtain ⟨r, -, rfl⟩ := List.mem_map.mp hm
  exact Sys2Proof.shiftRight_canonical r n

theorem Frame.orRows_shape {f g : Frame} {x y : Nat} (h : Frame.HasShape f x y) (h' : Frame.HasShape g x y) :
    Frame.HasShape (Frame.orRows f g) x y := by
  refine ⟨by simp [Frame.orRows, h.1, h'.1], ?_⟩
  intro m hm
  obtain ⟨i, hi, rfl⟩ := List.mem_iff_getElem.mp hm
  simp only [Frame.orRows, List.length_zipWith] at hi
  simp [Frame.orRows, h.nbits_getElem i (by omega)]

theorem Frame.orRows_canonical {f g : Frame} {x y : Nat} (h : Frame.HasShape f x y) (h' : Frame.HasShape g x y)
    (hc : Frame.Canonical f) (hc' : Frame.Canonical g) : Frame.Canonical (Frame.orRows f g) := by
  intro m hm
  obtain ⟨i, hi, rfl⟩ := List.mem_iff_getElem.mp hm
  simp only [Frame.orRows, List.length_zipWith] at hi
  simp only [Frame.orRows, List.getElem_zipWith]
  exact orRow_canonical _ _ (by rw [h.nbits_getElem i (by omega), h'.nbits_getElem i (by omega)])
    (hc _ (List.getElem_mem _)) (hc' _ (List.getElem_mem _))

/-- Whole-frame shift left, pixel by pixel (rule R145). -/
theorem Frame.shiftLeft_pixel {f : Frame} {w h : Nat} (hs : Frame.HasShape f w h) (hw : w ≤ 8) (hc : Frame.Canonical f) (n : Nat)
    {x y : Nat} (hx : x < w) (hy : y < h) : Frame.pixel (Frame.shiftLeft f n) x y = Frame.pixel f (x + n) y := by
  have hyf : y < f.length := by have := hs.1; omega
  rw [Frame.pixel_of_lt (Frame.shiftLeft_shape hs n) hx (by simpa [Frame.shiftLeft] using hyf)]
  have hn := hs.nbits_getElem y hyf
  simp only [Frame.shiftLeft, List.getElem_map]
  rw [Sys2Proof.shiftLeft_pixel _ _ _ (hc _ (List.getElem_mem hyf)) (by omega) (by omega)]
  simp [Frame.pixel, List.getElem?_eq_getElem hyf]

/-- Whole-frame shift right, pixel by pixel (rule R146). -/
theorem Frame.shiftRight_pixel {f : Frame} {w h : Nat} (hs : Frame.HasShape f w h) (hw : w ≤ 8) (n : Nat)
    {x y : Nat} (hx : x < w) (hy : y < h) :
    Frame.pixel (Frame.shiftRight f n) x y = (decide (n ≤ x) && Frame.pixel f (x - n) y) := by
  have hyf : y < f.length := by have := hs.1; omega
  rw [Frame.pixel_of_lt (Frame.shiftRight_shape hs n) hx (by simpa [Frame.shiftRight] using hyf)]
  have hn := hs.nbits_getElem y hyf
  simp only [Frame.shiftRight, List.getElem_map]
  rw [Sys2Proof.shiftRight_pixel _ _ _ (by omega) (by omega)]
  simp [Frame.pixel, List.getElem?_eq_getElem hyf, hn, show x - n < w by omega]

/-- The OR of two frames of one shape, pixel by pixel (rule R147). -/
theorem Frame.orRows_pixel {f g : Frame} {w h : Nat} (hf : Frame.HasShape f w h) (hg : Frame.HasShape g w h) {x y : Nat}
    (hx : x < w) (hy : y < h) : Frame.pixel (Frame.orRows f g) x y = (Frame.pixel f x y || Frame.pixel g x y) := by
  have hyf : y < f.length := by have := hf.1; omega
  have hyg : y < g.length := by have := hg.1; omega
  rw [Frame.pixel_of_lt (Frame.orRows_shape hf hg) hx (by simp [Frame.orRows]; omega), Frame.pixel_of_lt hf hx hyf,
    Frame.pixel_of_lt hg hx hyg]
  simp only [Frame.orRows, List.getElem_zipWith]
  exact orRow_pixel _ _ _

/-- The checked combine of rule R147 never refuses two frames of one shape. -/
theorem Frame.or_of_shape {f g : Frame} {w h : Nat} (hf : Frame.HasShape f w h) (hg : Frame.HasShape g w h) :
    Frame.or f g = some (Frame.orRows f g) := by
  have e : ∀ {k : Frame}, Frame.HasShape k w h → k.map Bitmap.nbits = List.replicate h w := by
    intro k hk
    rw [List.eq_replicate_iff]
    refine ⟨by simpa using hk.1, ?_⟩
    intro b hb
    obtain ⟨r, hr, rfl⟩ := List.mem_map.mp hb
    exact hk.2 r hr
  simp [Frame.or, Frame.SameShape, e hf, e hg]

/-- Replacing a row: either a fault, or a new frame that differs in that row only (rule R142). -/
theorem Frame.updateRow_ok {f f' : Frame} {y : Nat} {op : Bitmap → Except RangeFault Bitmap}
    (h : Frame.updateRow f y op = .ok f') : ∃ (hy : y < f.length) (row' : Bitmap), op f[y] = .ok row' ∧ f' = List.set f y row' := by
  unfold Frame.updateRow at h
  split at h
  · cases h
  · next row hrow =>
    obtain ⟨hy, rfl⟩ := List.getElem?_eq_some_iff.mp hrow
    split at h
    · cases h
    · next row' hop => cases h; exact ⟨hy, row', hop, rfl⟩

theorem Frame.updateRow_yRange {f : Frame} {y : Nat} (op : Bitmap → Except RangeFault Bitmap) (h : f.length ≤ y) :
    Frame.updateRow f y op = .error .yRange := by
  simp [Frame.updateRow, List.getElem?_eq_none h]

theorem Frame.updateRow_of_ok {f : Frame} {y : Nat} {op : Bitmap → Except RangeFault Bitmap} (h : y < f.length) {row' : Bitmap}
    (hop : op f[y] = .ok row') : Frame.updateRow f y op = .ok (List.set f y row') := by
  simp [Frame.updateRow, List.getElem?_eq_getElem h, hop]

theorem Frame.updateRow_of_error {f : Frame} {y : Nat} {op : Bitmap → Except RangeFault Bitmap} (h : y < f.length)
    {c : RangeFault} (hop : op f[y] = .error c) : Frame.updateRow f y op = .error c := by
  simp [Frame.updateRow, List.getElem?_eq_getElem h, hop]

/-- Pixels of a frame with one row replaced. -/
theorem Frame.pixel_set {f : Frame} {y : Nat} (hy : y < f.length) (row' : Bitmap) (a b : Nat) :
    Frame.pixel (List.set f y row') a b = if b = y then decide (a < row'.nbits) && row'.pixel a else Frame.pixel f a b := by
  unfold Frame.pixel
  by_cases hb : b = y
  · subst hb; simp [hy]
  · simp [hb, List.getElem?_set_ne (Ne.symm hb)]

/-- What a pixel update leaves when its row primitive keeps the width (rules R142, R143). -/
theorem Frame.updateRow_spec {f f' : Frame} {w h y : Nat} {op : Bitmap → Except RangeFault Bitmap} (hs : Frame.HasShape f w h)
    (he : Frame.updateRow f y op = .ok f')
    (hop : ∀ m m', op m = .ok m' → m.nbits = w → m'.nbits = w ∧ (m.Canonical → m'.Canonical)) :
    Frame.HasShape f' w h ∧ (Frame.Canonical f → Frame.Canonical f') := by
  obtain ⟨hy, row', hr, rfl⟩ := Frame.updateRow_ok he
  have hrow := hop _ _ hr (hs.nbits_getElem y hy)
  refine ⟨⟨by simpa using hs.1, ?_⟩, ?_⟩
  · intro m hm
    rcases List.mem_or_eq_of_mem_set hm with h1 | h1
    · exact hs.2 m h1
    · exact h1 ▸ hrow.1
  · intro hc m hm
    rcases List.mem_or_eq_of_mem_set hm with h1 | h1
    · exact hc m h1
    · exact h1 ▸ hrow.2 (hc _ (List.getElem_mem hy))

/-- What `Frame.set` leaves (rule R142). -/
theorem Frame.setPixel_ok_spec {f f' : Frame} {w h x y : Nat} (hs : Frame.HasShape f w h) (hw : w ≤ 8)
    (he : Frame.setPixel f x y = .ok f') : Frame.HasShape f' w h ∧ (Frame.Canonical f → Frame.Canonical f') :=
  Frame.updateRow_spec hs he fun _ _ hm hn => by
    have := set_spec hm (by omega); exact ⟨by omega, this.2.2.1⟩

/-- What `Frame.clear` leaves (rule R143). -/
theorem Frame.clearPixel_ok_spec {f f' : Frame} {w h x y : Nat} (hs : Frame.HasShape f w h) (hw : w ≤ 8)
    (he : Frame.clearPixel f x y = .ok f') : Frame.HasShape f' w h ∧ (Frame.Canonical f → Frame.Canonical f') :=
  Frame.updateRow_spec hs he fun _ _ hm hn => by
    have := clear_spec hm (by omega); exact ⟨by omega, this.2.2.1⟩

end Sys2Proof
end

