-- ==== Sys2Proof/Laws/Memory.lean ====
section
/-! SUPPORT. Source memory keeps its canonical form, a read gives the last write, and the frames read from it have the block's shape
(rules R64 to R69). -/

namespace Sys2Proof.Machine

@[simp] theorem read_nil (a : Nat) : Memory.read [] a = unlistedByte := rfl

theorem read_cons (k : Nat) (v : Byte) (m : Memory) (a : Nat) :
    Memory.read ((k, v) :: m) a = if k = a then v else Memory.read m a := rfl

/-- An address below every listed one reads as unlisted. -/
theorem read_of_wfFrom {m : Memory} : ∀ {lo a : Nat}, Memory.wfFrom lo m = true → a < lo → m.read a = unlistedByte := by
  induction m with
  | nil => intros; rfl
  | cons kv rest ih =>
    obtain ⟨k, v⟩ := kv
    intro lo a h ha
    simp only [Memory.wfFrom, Bool.and_eq_true, decide_eq_true_eq] at h
    rw [read_cons, if_neg (by omega)]
    exact ih h.2 (by omega)

/-- A read after a write: the new byte at that address, the old ones elsewhere. -/
theorem read_write (m : Memory) : ∀ {lo : Nat} (a : Nat) (b : Byte) (c : Nat), Memory.wfFrom lo m = true →
    (m.write a b).read c = if c = a then b else m.read c := by
  induction m with
  | nil =>
    intro lo a b c _
    simp only [Memory.write]
    by_cases hb : b = unlistedByte
    · rw [if_pos hb, hb]; simp
    · rw [if_neg hb, read_cons]; simp only [read_nil, eq_comm]
  | cons kv rest ih =>
    obtain ⟨k, v⟩ := kv
    intro lo a b c h
    simp only [Memory.wfFrom, Bool.and_eq_true, decide_eq_true_eq] at h
    simp only [Memory.write]
    by_cases h1 : a < k
    · rw [if_pos h1]
      by_cases hb : b = unlistedByte
      · rw [if_pos hb]
        by_cases hc : c = a
        · rw [if_pos hc, hc, hb]
          rw [read_cons, if_neg (by omega)]
          exact read_of_wfFrom h.2 (by omega)
        · rw [if_neg hc]
      · rw [if_neg hb, read_cons]
        simp only [eq_comm]
    · rw [if_neg h1]
      by_cases h2 : a = k
      · rw [if_pos h2]
        by_cases hb : b = unlistedByte
        · rw [if_pos hb]
          by_cases hc : c = a
          · rw [if_pos hc, hb, hc, h2]; exact read_of_wfFrom h.2 (by omega)
          · rw [if_neg hc, read_cons, if_neg (by omega)]
        · rw [if_neg hb, read_cons, read_cons]
          by_cases hc : c = a
          · rw [if_pos hc, if_pos hc.symm]
          · rw [if_neg hc, if_neg (by omega), if_neg (by omega)]
      · rw [if_neg h2, read_cons, read_cons, ih a b c h.2]
        by_cases hk : k = c
        · rw [if_pos hk, if_neg (by omega), if_pos hk]
        · rw [if_neg hk, if_neg hk]

/-- A write keeps the canonical form. -/
theorem write_wfFrom (m : Memory) : ∀ {lo : Nat} {a : Nat} (b : Byte), Memory.wfFrom lo m = true → lo ≤ a → a < 2 ^ 32 →
    Memory.wfFrom lo (m.write a b) = true := by
  induction m with
  | nil =>
    intro lo a b _ hlo ha
    simp only [Memory.write]
    by_cases hb : b = unlistedByte
    · rw [if_pos hb]; rfl
    · rw [if_neg hb]; simp [Memory.wfFrom, hlo, hb]; omega
  | cons kv rest ih =>
    obtain ⟨k, v⟩ := kv
    intro lo a b h hlo ha
    have h' := h
    simp only [Memory.wfFrom, Bool.and_eq_true, decide_eq_true_eq] at h
    obtain ⟨⟨⟨hk, hk32⟩, hv⟩, hr⟩ := h
    simp only [Memory.write]
    by_cases h1 : a < k
    · rw [if_pos h1]
      by_cases hb : b = unlistedByte
      · rw [if_pos hb]; exact h'
      · rw [if_neg hb]
        simp only [Memory.wfFrom, Bool.and_eq_true, decide_eq_true_eq]
        exact ⟨⟨⟨hlo, ha⟩, hb⟩, ⟨⟨by omega, hk32⟩, hv⟩, hr⟩
    · rw [if_neg h1]
      by_cases h2 : a = k
      · rw [if_pos h2]
        subst h2
        by_cases hb : b = unlistedByte
        · rw [if_pos hb]
          clear ih h'
          cases rest with
          | nil => rfl
          | cons kv' rest' =>
            obtain ⟨k', v'⟩ := kv'
            simp only [Memory.wfFrom, Bool.and_eq_true, decide_eq_true_eq] at hr ⊢
            exact ⟨⟨⟨by omega, hr.1.1.2⟩, hr.1.2⟩, hr.2⟩
        · rw [if_neg hb]
          simp only [Memory.wfFrom, Bool.and_eq_true, decide_eq_true_eq]
          exact ⟨⟨⟨hk, hk32⟩, hb⟩, hr⟩
      · rw [if_neg h2]
        simp only [Memory.wfFrom, Bool.and_eq_true, decide_eq_true_eq]
        exact ⟨⟨⟨hk, hk32⟩, hv⟩, ih b hr (by omega) ha⟩

/-- Every memory operation keeps `Memory.wf`: the write is the only one that makes a memory. -/
theorem write_wf {m : Memory} (h : m.wf = true) (a : Word) (b : Byte) : (m.write a.toNat b).wf = true :=
  write_wfFrom m b h (Nat.zero_le _) a.isLt

theorem read_write_wf {m : Memory} (h : m.wf = true) (a : Nat) (b : Byte) (c : Nat) :
    (m.write a b).read c = if c = a then b else m.read c := read_write m a b c h

theorem frameAt_shape (c : Config) (m : Memory) (base : Word) (k : Nat) : Frame.HasShape (frameAt c m base k) c.cols c.rows :=
  Frame.ofRows_shape c.cols c.rows _

theorem frameAt_canonical (c : Config) (m : Memory) (base : Word) (k : Nat) : Frame.Canonical (frameAt c m base k) :=
  Frame.ofRows_canonical c.cols c.rows _

theorem lookup_shape (c : Config) (b : Byte) : Frame.HasShape (lookup c b) c.cols c.rows := Frame.ofRows_shape c.cols c.rows _

theorem lookup_canonical (c : Config) (b : Byte) : Frame.Canonical (lookup c b) := Frame.ofRows_canonical c.cols c.rows _

/-- Every source element is a frame of the block's shape (rule R140). -/
theorem srcFrame_shape (c : Config) (m : Memory) (kind : Kind) (base : Word) (k : Nat) :
    Frame.HasShape (srcFrame c m kind base k) c.cols c.rows := by
  cases kind
  · exact frameAt_shape c m base k
  · exact lookup_shape c _

theorem srcFrame_canonical (c : Config) (m : Memory) (kind : Kind) (base : Word) (k : Nat) :
    Frame.Canonical (srcFrame c m kind base k) := by
  cases kind
  · exact frameAt_canonical c m base k
  · exact lookup_canonical c _

/-- A pixel of a frame in source memory (rule R67). -/
theorem frameAt_pixel (c : Config) (m : Memory) (base : Word) (k : Nat) (hc : c.cols ≤ 8) {x y : Nat} (hx : x < c.cols)
    (hy : y < c.rows) : Frame.pixel (frameAt c m base k) x y = (memRead m (base.toNat + k * c.rows + y)).getLsbD (7 - x) :=
  Frame.ofRows_pixel c.cols c.rows _ hc hx hy

end Sys2Proof.Machine
end

