-- ==== Sys2Proof/Laws/State.lean ====
section
/-! SUPPORT. One lemma per field per named update of the state, true by rfl, so that no proof unfolds a record update. -/

namespace Sys2Proof.Machine

/-! `State.rejectWith` -/

@[simp] theorem rejectWith_cfg (s : State) (c : RejectCause) : (s.rejectWith c).cfg = s.cfg := rfl
@[simp] theorem rejectWith_fb (s : State) (c : RejectCause) : (s.rejectWith c).fb = s.fb := rfl
@[simp] theorem rejectWith_srcBase (s : State) (c : RejectCause) : (s.rejectWith c).srcBase = s.srcBase := rfl
@[simp] theorem rejectWith_srcLen (s : State) (c : RejectCause) : (s.rejectWith c).srcLen = s.srcLen := rfl
@[simp] theorem rejectWith_durationLo (s : State) (c : RejectCause) : (s.rejectWith c).durationLo = s.durationLo := rfl
@[simp] theorem rejectWith_durationHi (s : State) (c : RejectCause) : (s.rejectWith c).durationHi = s.durationHi := rfl
@[simp] theorem rejectWith_cmdLast (s : State) (c : RejectCause) : (s.rejectWith c).cmdLast = s.cmdLast := rfl
@[simp] theorem rejectWith_rowP (s : State) (c : RejectCause) : (s.rejectWith c).rowP = s.rowP := rfl
@[simp] theorem rejectWith_brightness (s : State) (c : RejectCause) : (s.rejectWith c).brightness = s.brightness := rfl
@[simp] theorem rejectWith_fault (s : State) (c : RejectCause) : (s.rejectWith c).fault = s.fault := rfl
@[simp] theorem rejectWith_inert (s : State) (c : RejectCause) : (s.rejectWith c).inert = s.inert := rfl
@[simp] theorem rejectWith_reject (s : State) (c : RejectCause) : (s.rejectWith c).reject = true := rfl
@[simp] theorem rejectWith_result (s : State) (c : RejectCause) : (s.rejectWith c).result = s.result := rfl
@[simp] theorem rejectWith_faultCause (s : State) (c : RejectCause) : (s.rejectWith c).faultCause = s.faultCause := rfl
@[simp] theorem rejectWith_rejectCause (s : State) (c : RejectCause) : (s.rejectWith c).rejectCause = some c := rfl
@[simp] theorem rejectWith_rowOut (s : State) (c : RejectCause) : (s.rejectWith c).rowOut = s.rowOut := rfl
@[simp] theorem rejectWith_colOut (s : State) (c : RejectCause) : (s.rejectWith c).colOut = s.colOut := rfl
@[simp] theorem rejectWith_oe (s : State) (c : RejectCause) : (s.rejectWith c).oe = s.oe := rfl
@[simp] theorem rejectWith_an (s : State) (c : RejectCause) : (s.rejectWith c).an = s.an := rfl
@[simp] theorem rejectWith_op (s : State) (c : RejectCause) : (s.rejectWith c).op = s.op := rfl
@[simp] theorem rejectWith_phase (s : State) (c : RejectCause) : (s.rejectWith c).phase = s.phase := rfl
@[simp] theorem rejectWith_tWaitEnd (s : State) (c : RejectCause) : (s.rejectWith c).tWaitEnd = s.tWaitEnd := rfl
@[simp] theorem rejectWith_dispDeadline (s : State) (c : RejectCause) : (s.rejectWith c).dispDeadline = s.dispDeadline := rfl
@[simp] theorem rejectWith_abortReq (s : State) (c : RejectCause) : (s.rejectWith c).abortReq = s.abortReq := rfl
@[simp] theorem rejectWith_now (s : State) (c : RejectCause) : (s.rejectWith c).now = s.now := rfl
@[simp] theorem rejectWith_src (s : State) (c : RejectCause) : (s.rejectWith c).src = s.src := rfl
@[simp] theorem rejectWith_inputs (s : State) (c : RejectCause) : (s.rejectWith c).inputs = s.inputs := rfl
@[simp] theorem rejectWith_readData (s : State) (c : RejectCause) : (s.rejectWith c).readData = s.readData := rfl

/-! `State.acceptCmd` -/

@[simp] theorem acceptCmd_cfg (s : State) (i : Instr) : (s.acceptCmd i).cfg = s.cfg := rfl
@[simp] theorem acceptCmd_fb (s : State) (i : Instr) : (s.acceptCmd i).fb = s.fb := rfl
@[simp] theorem acceptCmd_srcBase (s : State) (i : Instr) : (s.acceptCmd i).srcBase = s.srcBase := rfl
@[simp] theorem acceptCmd_srcLen (s : State) (i : Instr) : (s.acceptCmd i).srcLen = s.srcLen := rfl
@[simp] theorem acceptCmd_durationLo (s : State) (i : Instr) : (s.acceptCmd i).durationLo = s.durationLo := rfl
@[simp] theorem acceptCmd_durationHi (s : State) (i : Instr) : (s.acceptCmd i).durationHi = s.durationHi := rfl
@[simp] theorem acceptCmd_cmdLast (s : State) (i : Instr) : (s.acceptCmd i).cmdLast = encode i := rfl
@[simp] theorem acceptCmd_rowP (s : State) (i : Instr) : (s.acceptCmd i).rowP = s.rowP := rfl
@[simp] theorem acceptCmd_brightness (s : State) (i : Instr) : (s.acceptCmd i).brightness = s.brightness := rfl
@[simp] theorem acceptCmd_fault (s : State) (i : Instr) : (s.acceptCmd i).fault = s.fault := rfl
@[simp] theorem acceptCmd_inert (s : State) (i : Instr) : (s.acceptCmd i).inert = s.inert := rfl
@[simp] theorem acceptCmd_reject (s : State) (i : Instr) : (s.acceptCmd i).reject = s.reject := rfl
@[simp] theorem acceptCmd_result (s : State) (i : Instr) : (s.acceptCmd i).result = s.result := rfl
@[simp] theorem acceptCmd_faultCause (s : State) (i : Instr) : (s.acceptCmd i).faultCause = s.faultCause := rfl
@[simp] theorem acceptCmd_rejectCause (s : State) (i : Instr) : (s.acceptCmd i).rejectCause = s.rejectCause := rfl
@[simp] theorem acceptCmd_rowOut (s : State) (i : Instr) : (s.acceptCmd i).rowOut = s.rowOut := rfl
@[simp] theorem acceptCmd_colOut (s : State) (i : Instr) : (s.acceptCmd i).colOut = s.colOut := rfl
@[simp] theorem acceptCmd_oe (s : State) (i : Instr) : (s.acceptCmd i).oe = s.oe := rfl
@[simp] theorem acceptCmd_an (s : State) (i : Instr) : (s.acceptCmd i).an = s.an := rfl
@[simp] theorem acceptCmd_op (s : State) (i : Instr) : (s.acceptCmd i).op = s.op := rfl
@[simp] theorem acceptCmd_phase (s : State) (i : Instr) : (s.acceptCmd i).phase = s.phase := rfl
@[simp] theorem acceptCmd_tWaitEnd (s : State) (i : Instr) : (s.acceptCmd i).tWaitEnd = s.tWaitEnd := rfl
@[simp] theorem acceptCmd_dispDeadline (s : State) (i : Instr) : (s.acceptCmd i).dispDeadline = s.dispDeadline := rfl
@[simp] theorem acceptCmd_abortReq (s : State) (i : Instr) : (s.acceptCmd i).abortReq = s.abortReq := rfl
@[simp] theorem acceptCmd_now (s : State) (i : Instr) : (s.acceptCmd i).now = s.now := rfl
@[simp] theorem acceptCmd_src (s : State) (i : Instr) : (s.acceptCmd i).src = s.src := rfl
@[simp] theorem acceptCmd_inputs (s : State) (i : Instr) : (s.acceptCmd i).inputs = s.inputs := rfl
@[simp] theorem acceptCmd_readData (s : State) (i : Instr) : (s.acceptCmd i).readData = s.readData := rfl

/-! `State.raiseFault` -/

@[simp] theorem raiseFault_cfg (s : State) (c : RangeFault) : (s.raiseFault c).cfg = s.cfg := rfl
@[simp] theorem raiseFault_fb (s : State) (c : RangeFault) : (s.raiseFault c).fb = s.fb := rfl
@[simp] theorem raiseFault_srcBase (s : State) (c : RangeFault) : (s.raiseFault c).srcBase = s.srcBase := rfl
@[simp] theorem raiseFault_srcLen (s : State) (c : RangeFault) : (s.raiseFault c).srcLen = s.srcLen := rfl
@[simp] theorem raiseFault_durationLo (s : State) (c : RangeFault) : (s.raiseFault c).durationLo = s.durationLo := rfl
@[simp] theorem raiseFault_durationHi (s : State) (c : RangeFault) : (s.raiseFault c).durationHi = s.durationHi := rfl
@[simp] theorem raiseFault_cmdLast (s : State) (c : RangeFault) : (s.raiseFault c).cmdLast = s.cmdLast := rfl
@[simp] theorem raiseFault_rowP (s : State) (c : RangeFault) : (s.raiseFault c).rowP = s.rowP := rfl
@[simp] theorem raiseFault_brightness (s : State) (c : RangeFault) : (s.raiseFault c).brightness = s.brightness := rfl
@[simp] theorem raiseFault_fault (s : State) (c : RangeFault) : (s.raiseFault c).fault = true := rfl
@[simp] theorem raiseFault_inert (s : State) (c : RangeFault) : (s.raiseFault c).inert = s.inert := rfl
@[simp] theorem raiseFault_reject (s : State) (c : RangeFault) : (s.raiseFault c).reject = s.reject := rfl
@[simp] theorem raiseFault_result (s : State) (c : RangeFault) : (s.raiseFault c).result = s.result := rfl
@[simp] theorem raiseFault_faultCause (s : State) (c : RangeFault) : (s.raiseFault c).faultCause = some c := rfl
@[simp] theorem raiseFault_rejectCause (s : State) (c : RangeFault) : (s.raiseFault c).rejectCause = s.rejectCause := rfl
@[simp] theorem raiseFault_rowOut (s : State) (c : RangeFault) : (s.raiseFault c).rowOut = s.rowOut := rfl
@[simp] theorem raiseFault_colOut (s : State) (c : RangeFault) : (s.raiseFault c).colOut = s.colOut := rfl
@[simp] theorem raiseFault_oe (s : State) (c : RangeFault) : (s.raiseFault c).oe = s.oe := rfl
@[simp] theorem raiseFault_an (s : State) (c : RangeFault) : (s.raiseFault c).an = s.an := rfl
@[simp] theorem raiseFault_op (s : State) (c : RangeFault) : (s.raiseFault c).op = s.op := rfl
@[simp] theorem raiseFault_phase (s : State) (c : RangeFault) : (s.raiseFault c).phase = s.phase := rfl
@[simp] theorem raiseFault_tWaitEnd (s : State) (c : RangeFault) : (s.raiseFault c).tWaitEnd = s.tWaitEnd := rfl
@[simp] theorem raiseFault_dispDeadline (s : State) (c : RangeFault) : (s.raiseFault c).dispDeadline = s.dispDeadline := rfl
@[simp] theorem raiseFault_abortReq (s : State) (c : RangeFault) : (s.raiseFault c).abortReq = s.abortReq := rfl
@[simp] theorem raiseFault_now (s : State) (c : RangeFault) : (s.raiseFault c).now = s.now := rfl
@[simp] theorem raiseFault_src (s : State) (c : RangeFault) : (s.raiseFault c).src = s.src := rfl
@[simp] theorem raiseFault_inputs (s : State) (c : RangeFault) : (s.raiseFault c).inputs = s.inputs := rfl
@[simp] theorem raiseFault_readData (s : State) (c : RangeFault) : (s.raiseFault c).readData = s.readData := rfl

/-! `State.clearAll` -/

@[simp] theorem clearAll_cfg (s : State) : s.clearAll.cfg = s.cfg := rfl
@[simp] theorem clearAll_fb (s : State) : s.clearAll.fb = Frame.empty s.cfg.cols s.cfg.rows := rfl
@[simp] theorem clearAll_srcBase (s : State) : s.clearAll.srcBase = s.srcBase := rfl
@[simp] theorem clearAll_srcLen (s : State) : s.clearAll.srcLen = s.srcLen := rfl
@[simp] theorem clearAll_durationLo (s : State) : s.clearAll.durationLo = s.durationLo := rfl
@[simp] theorem clearAll_durationHi (s : State) : s.clearAll.durationHi = s.durationHi := rfl
@[simp] theorem clearAll_cmdLast (s : State) : s.clearAll.cmdLast = s.cmdLast := rfl
@[simp] theorem clearAll_rowP (s : State) : s.clearAll.rowP = s.rowP := rfl
@[simp] theorem clearAll_brightness (s : State) : s.clearAll.brightness = s.brightness := rfl
@[simp] theorem clearAll_fault (s : State) : s.clearAll.fault = s.fault := rfl
@[simp] theorem clearAll_inert (s : State) : s.clearAll.inert = s.inert := rfl
@[simp] theorem clearAll_reject (s : State) : s.clearAll.reject = s.reject := rfl
@[simp] theorem clearAll_result (s : State) : s.clearAll.result = s.result := rfl
@[simp] theorem clearAll_faultCause (s : State) : s.clearAll.faultCause = s.faultCause := rfl
@[simp] theorem clearAll_rejectCause (s : State) : s.clearAll.rejectCause = s.rejectCause := rfl
@[simp] theorem clearAll_rowOut (s : State) : s.clearAll.rowOut = List.replicate s.cfg.rows false := rfl
@[simp] theorem clearAll_colOut (s : State) : s.clearAll.colOut = List.replicate s.cfg.cols false := rfl
@[simp] theorem clearAll_oe (s : State) : s.clearAll.oe = s.oe := rfl
@[simp] theorem clearAll_an (s : State) : s.clearAll.an = s.an := rfl
@[simp] theorem clearAll_op (s : State) : s.clearAll.op = s.op := rfl
@[simp] theorem clearAll_phase (s : State) : s.clearAll.phase = s.phase := rfl
@[simp] theorem clearAll_tWaitEnd (s : State) : s.clearAll.tWaitEnd = s.tWaitEnd := rfl
@[simp] theorem clearAll_dispDeadline (s : State) : s.clearAll.dispDeadline = s.dispDeadline := rfl
@[simp] theorem clearAll_abortReq (s : State) : s.clearAll.abortReq = s.abortReq := rfl
@[simp] theorem clearAll_now (s : State) : s.clearAll.now = s.now := rfl
@[simp] theorem clearAll_src (s : State) : s.clearAll.src = s.src := rfl
@[simp] theorem clearAll_inputs (s : State) : s.clearAll.inputs = s.inputs := rfl
@[simp] theorem clearAll_readData (s : State) : s.clearAll.readData = s.readData := rfl

/-! `State.applyFrame` -/

@[simp] theorem applyFrame_cfg (s : State) (f : Frame) : (s.applyFrame f).cfg = s.cfg := rfl
@[simp] theorem applyFrame_fb (s : State) (f : Frame) : (s.applyFrame f).fb = f := rfl
@[simp] theorem applyFrame_srcBase (s : State) (f : Frame) : (s.applyFrame f).srcBase = s.srcBase := rfl
@[simp] theorem applyFrame_srcLen (s : State) (f : Frame) : (s.applyFrame f).srcLen = s.srcLen := rfl
@[simp] theorem applyFrame_durationLo (s : State) (f : Frame) : (s.applyFrame f).durationLo = s.durationLo := rfl
@[simp] theorem applyFrame_durationHi (s : State) (f : Frame) : (s.applyFrame f).durationHi = s.durationHi := rfl
@[simp] theorem applyFrame_cmdLast (s : State) (f : Frame) : (s.applyFrame f).cmdLast = s.cmdLast := rfl
@[simp] theorem applyFrame_rowP (s : State) (f : Frame) : (s.applyFrame f).rowP = s.rowP := rfl
@[simp] theorem applyFrame_brightness (s : State) (f : Frame) : (s.applyFrame f).brightness = s.brightness := rfl
@[simp] theorem applyFrame_fault (s : State) (f : Frame) : (s.applyFrame f).fault = s.fault := rfl
@[simp] theorem applyFrame_inert (s : State) (f : Frame) : (s.applyFrame f).inert = s.inert := rfl
@[simp] theorem applyFrame_reject (s : State) (f : Frame) : (s.applyFrame f).reject = s.reject := rfl
@[simp] theorem applyFrame_result (s : State) (f : Frame) : (s.applyFrame f).result = s.result := rfl
@[simp] theorem applyFrame_faultCause (s : State) (f : Frame) : (s.applyFrame f).faultCause = s.faultCause := rfl
@[simp] theorem applyFrame_rejectCause (s : State) (f : Frame) : (s.applyFrame f).rejectCause = s.rejectCause := rfl
@[simp] theorem applyFrame_rowOut (s : State) (f : Frame) : (s.applyFrame f).rowOut = s.rowOut := rfl
@[simp] theorem applyFrame_colOut (s : State) (f : Frame) : (s.applyFrame f).colOut = s.colOut := rfl
@[simp] theorem applyFrame_oe (s : State) (f : Frame) : (s.applyFrame f).oe = s.oe := rfl
@[simp] theorem applyFrame_an (s : State) (f : Frame) : (s.applyFrame f).an = s.an := rfl
@[simp] theorem applyFrame_op (s : State) (f : Frame) : (s.applyFrame f).op = s.op := rfl
@[simp] theorem applyFrame_phase (s : State) (f : Frame) : (s.applyFrame f).phase = s.phase := rfl
@[simp] theorem applyFrame_tWaitEnd (s : State) (f : Frame) : (s.applyFrame f).tWaitEnd = s.tWaitEnd := rfl
@[simp] theorem applyFrame_dispDeadline (s : State) (f : Frame) : (s.applyFrame f).dispDeadline = s.dispDeadline := rfl
@[simp] theorem applyFrame_abortReq (s : State) (f : Frame) : (s.applyFrame f).abortReq = s.abortReq := rfl
@[simp] theorem applyFrame_now (s : State) (f : Frame) : (s.applyFrame f).now = s.now := rfl
@[simp] theorem applyFrame_src (s : State) (f : Frame) : (s.applyFrame f).src = s.src := rfl
@[simp] theorem applyFrame_inputs (s : State) (f : Frame) : (s.applyFrame f).inputs = s.inputs := rfl
@[simp] theorem applyFrame_readData (s : State) (f : Frame) : (s.applyFrame f).readData = s.readData := rfl

/-! `State.beginDwell` -/

@[simp] theorem beginDwell_cfg (s : State) : s.beginDwell.cfg = s.cfg := rfl
@[simp] theorem beginDwell_fb (s : State) : s.beginDwell.fb = s.fb := rfl
@[simp] theorem beginDwell_srcBase (s : State) : s.beginDwell.srcBase = s.srcBase := rfl
@[simp] theorem beginDwell_srcLen (s : State) : s.beginDwell.srcLen = s.srcLen := rfl
@[simp] theorem beginDwell_durationLo (s : State) : s.beginDwell.durationLo = s.durationLo := rfl
@[simp] theorem beginDwell_durationHi (s : State) : s.beginDwell.durationHi = s.durationHi := rfl
@[simp] theorem beginDwell_cmdLast (s : State) : s.beginDwell.cmdLast = s.cmdLast := rfl
@[simp] theorem beginDwell_rowP (s : State) : s.beginDwell.rowP = s.rowP := rfl
@[simp] theorem beginDwell_brightness (s : State) : s.beginDwell.brightness = s.brightness := rfl
@[simp] theorem beginDwell_fault (s : State) : s.beginDwell.fault = s.fault := rfl
@[simp] theorem beginDwell_inert (s : State) : s.beginDwell.inert = s.inert := rfl
@[simp] theorem beginDwell_reject (s : State) : s.beginDwell.reject = s.reject := rfl
@[simp] theorem beginDwell_result (s : State) : s.beginDwell.result = s.result := rfl
@[simp] theorem beginDwell_faultCause (s : State) : s.beginDwell.faultCause = s.faultCause := rfl
@[simp] theorem beginDwell_rejectCause (s : State) : s.beginDwell.rejectCause = s.rejectCause := rfl
@[simp] theorem beginDwell_rowOut (s : State) : s.beginDwell.rowOut = List.replicate s.cfg.rows false := rfl
@[simp] theorem beginDwell_colOut (s : State) : s.beginDwell.colOut = s.renderColumns := rfl
@[simp] theorem beginDwell_oe (s : State) : s.beginDwell.oe = s.oe := rfl
@[simp] theorem beginDwell_an (s : State) : s.beginDwell.an = s.an := rfl
@[simp] theorem beginDwell_op (s : State) : s.beginDwell.op = s.op := rfl
@[simp] theorem beginDwell_phase (s : State) : s.beginDwell.phase = .dwell := rfl
@[simp] theorem beginDwell_tWaitEnd (s : State) : s.beginDwell.tWaitEnd = s.now + dwell s.cfg s.brightness := rfl
@[simp] theorem beginDwell_dispDeadline (s : State) : s.beginDwell.dispDeadline = s.dispDeadline := rfl
@[simp] theorem beginDwell_abortReq (s : State) : s.beginDwell.abortReq = s.abortReq := rfl
@[simp] theorem beginDwell_now (s : State) : s.beginDwell.now = s.now := rfl
@[simp] theorem beginDwell_src (s : State) : s.beginDwell.src = s.src := rfl
@[simp] theorem beginDwell_inputs (s : State) : s.beginDwell.inputs = s.inputs := rfl
@[simp] theorem beginDwell_readData (s : State) : s.beginDwell.readData = s.readData := rfl

/-! `State.renderEnd` -/

@[simp] theorem renderEnd_cfg (s : State) : s.renderEnd.cfg = s.cfg := rfl
@[simp] theorem renderEnd_fb (s : State) : s.renderEnd.fb = s.fb := rfl
@[simp] theorem renderEnd_srcBase (s : State) : s.renderEnd.srcBase = s.srcBase := rfl
@[simp] theorem renderEnd_srcLen (s : State) : s.renderEnd.srcLen = s.srcLen := rfl
@[simp] theorem renderEnd_durationLo (s : State) : s.renderEnd.durationLo = s.durationLo := rfl
@[simp] theorem renderEnd_durationHi (s : State) : s.renderEnd.durationHi = s.durationHi := rfl
@[simp] theorem renderEnd_cmdLast (s : State) : s.renderEnd.cmdLast = s.cmdLast := rfl
@[simp] theorem renderEnd_rowP (s : State) : s.renderEnd.rowP = (s.rowP + 1) % s.cfg.rows := rfl
@[simp] theorem renderEnd_brightness (s : State) : s.renderEnd.brightness = s.brightness := rfl
@[simp] theorem renderEnd_fault (s : State) : s.renderEnd.fault = s.fault := rfl
@[simp] theorem renderEnd_inert (s : State) : s.renderEnd.inert = s.inert := rfl
@[simp] theorem renderEnd_reject (s : State) : s.renderEnd.reject = s.reject := rfl
@[simp] theorem renderEnd_result (s : State) : s.renderEnd.result = s.result := rfl
@[simp] theorem renderEnd_faultCause (s : State) : s.renderEnd.faultCause = s.faultCause := rfl
@[simp] theorem renderEnd_rejectCause (s : State) : s.renderEnd.rejectCause = s.rejectCause := rfl
@[simp] theorem renderEnd_rowOut (s : State) : s.renderEnd.rowOut = s.rowOut.set s.rowP true := rfl
@[simp] theorem renderEnd_colOut (s : State) : s.renderEnd.colOut = s.colOut := rfl
@[simp] theorem renderEnd_oe (s : State) : s.renderEnd.oe = s.oe := rfl
@[simp] theorem renderEnd_an (s : State) : s.renderEnd.an = s.an := rfl
@[simp] theorem renderEnd_op (s : State) : s.renderEnd.op = s.op := rfl
@[simp] theorem renderEnd_phase (s : State) : s.renderEnd.phase = s.phase := rfl
@[simp] theorem renderEnd_tWaitEnd (s : State) : s.renderEnd.tWaitEnd = s.tWaitEnd := rfl
@[simp] theorem renderEnd_dispDeadline (s : State) : s.renderEnd.dispDeadline = s.dispDeadline := rfl
@[simp] theorem renderEnd_abortReq (s : State) : s.renderEnd.abortReq = s.abortReq := rfl
@[simp] theorem renderEnd_now (s : State) : s.renderEnd.now = s.now := rfl
@[simp] theorem renderEnd_src (s : State) : s.renderEnd.src = s.src := rfl
@[simp] theorem renderEnd_inputs (s : State) : s.renderEnd.inputs = s.inputs := rfl
@[simp] theorem renderEnd_readData (s : State) : s.renderEnd.readData = s.readData := rfl

/-! `State.endOp` -/

@[simp] theorem endOp_cfg (s : State) (r : Result) : (s.endOp r).cfg = s.cfg := rfl
@[simp] theorem endOp_fb (s : State) (r : Result) : (s.endOp r).fb = s.fb := rfl
@[simp] theorem endOp_srcBase (s : State) (r : Result) : (s.endOp r).srcBase = s.srcBase := rfl
@[simp] theorem endOp_srcLen (s : State) (r : Result) : (s.endOp r).srcLen = s.srcLen := rfl
@[simp] theorem endOp_durationLo (s : State) (r : Result) : (s.endOp r).durationLo = s.durationLo := rfl
@[simp] theorem endOp_durationHi (s : State) (r : Result) : (s.endOp r).durationHi = s.durationHi := rfl
@[simp] theorem endOp_cmdLast (s : State) (r : Result) : (s.endOp r).cmdLast = s.cmdLast := rfl
@[simp] theorem endOp_rowP (s : State) (r : Result) : (s.endOp r).rowP = s.rowP := rfl
@[simp] theorem endOp_brightness (s : State) (r : Result) : (s.endOp r).brightness = s.brightness := rfl
@[simp] theorem endOp_fault (s : State) (r : Result) : (s.endOp r).fault = s.fault := rfl
@[simp] theorem endOp_inert (s : State) (r : Result) : (s.endOp r).inert = s.inert := rfl
@[simp] theorem endOp_reject (s : State) (r : Result) : (s.endOp r).reject = s.reject := rfl
@[simp] theorem endOp_result (s : State) (r : Result) : (s.endOp r).result = r := rfl
@[simp] theorem endOp_faultCause (s : State) (r : Result) : (s.endOp r).faultCause = s.faultCause := rfl
@[simp] theorem endOp_rejectCause (s : State) (r : Result) : (s.endOp r).rejectCause = s.rejectCause := rfl
@[simp] theorem endOp_rowOut (s : State) (r : Result) : (s.endOp r).rowOut = s.rowOut := rfl
@[simp] theorem endOp_colOut (s : State) (r : Result) : (s.endOp r).colOut = s.colOut := rfl
@[simp] theorem endOp_oe (s : State) (r : Result) : (s.endOp r).oe = s.oe := rfl
@[simp] theorem endOp_an (s : State) (r : Result) : (s.endOp r).an = s.an := rfl
@[simp] theorem endOp_op (s : State) (r : Result) : (s.endOp r).op = .none := rfl
@[simp] theorem endOp_phase (s : State) (r : Result) : (s.endOp r).phase = .idle := rfl
@[simp] theorem endOp_tWaitEnd (s : State) (r : Result) : (s.endOp r).tWaitEnd = s.tWaitEnd := rfl
@[simp] theorem endOp_dispDeadline (s : State) (r : Result) : (s.endOp r).dispDeadline = s.dispDeadline := rfl
@[simp] theorem endOp_abortReq (s : State) (r : Result) : (s.endOp r).abortReq = false := rfl
@[simp] theorem endOp_now (s : State) (r : Result) : (s.endOp r).now = s.now := rfl
@[simp] theorem endOp_src (s : State) (r : Result) : (s.endOp r).src = s.src := rfl
@[simp] theorem endOp_inputs (s : State) (r : Result) : (s.endOp r).inputs = s.inputs := rfl
@[simp] theorem endOp_readData (s : State) (r : Result) : (s.endOp r).readData = s.readData := rfl

/-! `State.finish` -/

@[simp] theorem finish_cfg (s : State) : s.finish.cfg = s.cfg := rfl
@[simp] theorem finish_fb (s : State) : s.finish.fb = Frame.empty s.cfg.cols s.cfg.rows := rfl
@[simp] theorem finish_srcBase (s : State) : s.finish.srcBase = s.srcBase := rfl
@[simp] theorem finish_srcLen (s : State) : s.finish.srcLen = s.srcLen := rfl
@[simp] theorem finish_durationLo (s : State) : s.finish.durationLo = s.durationLo := rfl
@[simp] theorem finish_durationHi (s : State) : s.finish.durationHi = s.durationHi := rfl
@[simp] theorem finish_cmdLast (s : State) : s.finish.cmdLast = s.cmdLast := rfl
@[simp] theorem finish_rowP (s : State) : s.finish.rowP = s.rowP := rfl
@[simp] theorem finish_brightness (s : State) : s.finish.brightness = s.brightness := rfl
@[simp] theorem finish_fault (s : State) : s.finish.fault = s.fault := rfl
@[simp] theorem finish_inert (s : State) : s.finish.inert = s.inert := rfl
@[simp] theorem finish_reject (s : State) : s.finish.reject = s.reject := rfl
@[simp] theorem finish_result (s : State) : s.finish.result = .ok := rfl
@[simp] theorem finish_faultCause (s : State) : s.finish.faultCause = s.faultCause := rfl
@[simp] theorem finish_rejectCause (s : State) : s.finish.rejectCause = s.rejectCause := rfl
@[simp] theorem finish_rowOut (s : State) : s.finish.rowOut = List.replicate s.cfg.rows false := rfl
@[simp] theorem finish_colOut (s : State) : s.finish.colOut = List.replicate s.cfg.cols false := rfl
@[simp] theorem finish_oe (s : State) : s.finish.oe = s.oe := rfl
@[simp] theorem finish_an (s : State) : s.finish.an = s.an := rfl
@[simp] theorem finish_op (s : State) : s.finish.op = .none := rfl
@[simp] theorem finish_phase (s : State) : s.finish.phase = .idle := rfl
@[simp] theorem finish_tWaitEnd (s : State) : s.finish.tWaitEnd = s.tWaitEnd := rfl
@[simp] theorem finish_dispDeadline (s : State) : s.finish.dispDeadline = s.dispDeadline := rfl
@[simp] theorem finish_abortReq (s : State) : s.finish.abortReq = false := rfl
@[simp] theorem finish_now (s : State) : s.finish.now = s.now := rfl
@[simp] theorem finish_src (s : State) : s.finish.src = s.src := rfl
@[simp] theorem finish_inputs (s : State) : s.finish.inputs = s.inputs := rfl
@[simp] theorem finish_readData (s : State) : s.finish.readData = s.readData := rfl

/-! `State.abandon` -/

@[simp] theorem abandon_cfg (s : State) : s.abandon.cfg = s.cfg := rfl
@[simp] theorem abandon_fb (s : State) : s.abandon.fb = s.fb := rfl
@[simp] theorem abandon_srcBase (s : State) : s.abandon.srcBase = s.srcBase := rfl
@[simp] theorem abandon_srcLen (s : State) : s.abandon.srcLen = s.srcLen := rfl
@[simp] theorem abandon_durationLo (s : State) : s.abandon.durationLo = s.durationLo := rfl
@[simp] theorem abandon_durationHi (s : State) : s.abandon.durationHi = s.durationHi := rfl
@[simp] theorem abandon_cmdLast (s : State) : s.abandon.cmdLast = s.cmdLast := rfl
@[simp] theorem abandon_rowP (s : State) : s.abandon.rowP = s.rowP := rfl
@[simp] theorem abandon_brightness (s : State) : s.abandon.brightness = s.brightness := rfl
@[simp] theorem abandon_fault (s : State) : s.abandon.fault = s.fault := rfl
@[simp] theorem abandon_inert (s : State) : s.abandon.inert = s.inert := rfl
@[simp] theorem abandon_reject (s : State) : s.abandon.reject = s.reject := rfl
@[simp] theorem abandon_result (s : State) : s.abandon.result = .aborted := rfl
@[simp] theorem abandon_faultCause (s : State) : s.abandon.faultCause = s.faultCause := rfl
@[simp] theorem abandon_rejectCause (s : State) : s.abandon.rejectCause = s.rejectCause := rfl
@[simp] theorem abandon_rowOut (s : State) : s.abandon.rowOut = s.rowOut := rfl
@[simp] theorem abandon_colOut (s : State) : s.abandon.colOut = s.colOut := rfl
@[simp] theorem abandon_oe (s : State) : s.abandon.oe = s.oe := rfl
@[simp] theorem abandon_an (s : State) : s.abandon.an = s.an := rfl
@[simp] theorem abandon_op (s : State) : s.abandon.op = .none := rfl
@[simp] theorem abandon_phase (s : State) : s.abandon.phase = .idle := rfl
@[simp] theorem abandon_tWaitEnd (s : State) : s.abandon.tWaitEnd = s.tWaitEnd := rfl
@[simp] theorem abandon_dispDeadline (s : State) : s.abandon.dispDeadline = s.dispDeadline := rfl
@[simp] theorem abandon_abortReq (s : State) : s.abandon.abortReq = false := rfl
@[simp] theorem abandon_now (s : State) : s.abandon.now = s.now := rfl
@[simp] theorem abandon_src (s : State) : s.abandon.src = s.src := rfl
@[simp] theorem abandon_inputs (s : State) : s.abandon.inputs = s.inputs := rfl
@[simp] theorem abandon_readData (s : State) : s.abandon.readData = s.readData := rfl

/-! `State.resetBlock` -/

@[simp] theorem resetBlock_cfg (s : State) : s.resetBlock.cfg = s.cfg := rfl
@[simp] theorem resetBlock_fb (s : State) : s.resetBlock.fb = (State.resetOf s.cfg).fb := rfl
@[simp] theorem resetBlock_srcBase (s : State) : s.resetBlock.srcBase = (State.resetOf s.cfg).srcBase := rfl
@[simp] theorem resetBlock_srcLen (s : State) : s.resetBlock.srcLen = (State.resetOf s.cfg).srcLen := rfl
@[simp] theorem resetBlock_durationLo (s : State) : s.resetBlock.durationLo = (State.resetOf s.cfg).durationLo := rfl
@[simp] theorem resetBlock_durationHi (s : State) : s.resetBlock.durationHi = (State.resetOf s.cfg).durationHi := rfl
@[simp] theorem resetBlock_cmdLast (s : State) : s.resetBlock.cmdLast = (State.resetOf s.cfg).cmdLast := rfl
@[simp] theorem resetBlock_rowP (s : State) : s.resetBlock.rowP = (State.resetOf s.cfg).rowP := rfl
@[simp] theorem resetBlock_brightness (s : State) : s.resetBlock.brightness = (State.resetOf s.cfg).brightness := rfl
@[simp] theorem resetBlock_fault (s : State) : s.resetBlock.fault = (State.resetOf s.cfg).fault := rfl
@[simp] theorem resetBlock_inert (s : State) : s.resetBlock.inert = (State.resetOf s.cfg).inert := rfl
@[simp] theorem resetBlock_reject (s : State) : s.resetBlock.reject = (State.resetOf s.cfg).reject := rfl
@[simp] theorem resetBlock_result (s : State) : s.resetBlock.result = (State.resetOf s.cfg).result := rfl
@[simp] theorem resetBlock_faultCause (s : State) : s.resetBlock.faultCause = (State.resetOf s.cfg).faultCause := rfl
@[simp] theorem resetBlock_rejectCause (s : State) : s.resetBlock.rejectCause = (State.resetOf s.cfg).rejectCause := rfl
@[simp] theorem resetBlock_rowOut (s : State) : s.resetBlock.rowOut = (State.resetOf s.cfg).rowOut := rfl
@[simp] theorem resetBlock_colOut (s : State) : s.resetBlock.colOut = (State.resetOf s.cfg).colOut := rfl
@[simp] theorem resetBlock_oe (s : State) : s.resetBlock.oe = (State.resetOf s.cfg).oe := rfl
@[simp] theorem resetBlock_an (s : State) : s.resetBlock.an = (State.resetOf s.cfg).an := rfl
@[simp] theorem resetBlock_op (s : State) : s.resetBlock.op = (State.resetOf s.cfg).op := rfl
@[simp] theorem resetBlock_phase (s : State) : s.resetBlock.phase = (State.resetOf s.cfg).phase := rfl
@[simp] theorem resetBlock_tWaitEnd (s : State) : s.resetBlock.tWaitEnd = (State.resetOf s.cfg).tWaitEnd := rfl
@[simp] theorem resetBlock_dispDeadline (s : State) : s.resetBlock.dispDeadline = (State.resetOf s.cfg).dispDeadline := rfl
@[simp] theorem resetBlock_abortReq (s : State) : s.resetBlock.abortReq = (State.resetOf s.cfg).abortReq := rfl
@[simp] theorem resetBlock_now (s : State) : s.resetBlock.now = s.now := rfl
@[simp] theorem resetBlock_src (s : State) : s.resetBlock.src = s.src := rfl
@[simp] theorem resetBlock_inputs (s : State) : s.resetBlock.inputs = s.inputs := rfl
@[simp] theorem resetBlock_readData (s : State) : s.resetBlock.readData = s.readData := rfl

/-! `State.writeStatus` -/

@[simp] theorem writeStatus_cfg (s : State) (v : Word) : (s.writeStatus v).cfg = s.cfg := by
  unfold State.writeStatus; cases v.getLsbD 3 <;> rfl
@[simp] theorem writeStatus_fb (s : State) (v : Word) : (s.writeStatus v).fb = s.fb := by
  unfold State.writeStatus; cases v.getLsbD 3 <;> rfl
@[simp] theorem writeStatus_srcBase (s : State) (v : Word) : (s.writeStatus v).srcBase = s.srcBase := by
  unfold State.writeStatus; cases v.getLsbD 3 <;> rfl
@[simp] theorem writeStatus_srcLen (s : State) (v : Word) : (s.writeStatus v).srcLen = s.srcLen := by
  unfold State.writeStatus; cases v.getLsbD 3 <;> rfl
@[simp] theorem writeStatus_durationLo (s : State) (v : Word) : (s.writeStatus v).durationLo = s.durationLo := by
  unfold State.writeStatus; cases v.getLsbD 3 <;> rfl
@[simp] theorem writeStatus_durationHi (s : State) (v : Word) : (s.writeStatus v).durationHi = s.durationHi := by
  unfold State.writeStatus; cases v.getLsbD 3 <;> rfl
@[simp] theorem writeStatus_cmdLast (s : State) (v : Word) : (s.writeStatus v).cmdLast = s.cmdLast := by
  unfold State.writeStatus; cases v.getLsbD 3 <;> rfl
@[simp] theorem writeStatus_rowP (s : State) (v : Word) : (s.writeStatus v).rowP = s.rowP := by
  unfold State.writeStatus; cases v.getLsbD 3 <;> rfl
@[simp] theorem writeStatus_brightness (s : State) (v : Word) : (s.writeStatus v).brightness = s.brightness := by
  unfold State.writeStatus; cases v.getLsbD 3 <;> rfl
@[simp] theorem writeStatus_fault (s : State) (v : Word) : (s.writeStatus v).fault = s.fault := by
  unfold State.writeStatus; cases v.getLsbD 3 <;> rfl
@[simp] theorem writeStatus_inert (s : State) (v : Word) : (s.writeStatus v).inert = s.inert := by
  unfold State.writeStatus; cases v.getLsbD 3 <;> rfl
@[simp] theorem writeStatus_reject (s : State) (v : Word) : (s.writeStatus v).reject = (!v.getLsbD 3 && s.reject) := by
  unfold State.writeStatus; cases v.getLsbD 3 <;> rfl
@[simp] theorem writeStatus_result (s : State) (v : Word) : (s.writeStatus v).result = s.result := by
  unfold State.writeStatus; cases v.getLsbD 3 <;> rfl
@[simp] theorem writeStatus_faultCause (s : State) (v : Word) : (s.writeStatus v).faultCause = s.faultCause := by
  unfold State.writeStatus; cases v.getLsbD 3 <;> rfl
@[simp] theorem writeStatus_rejectCause (s : State) (v : Word) : (s.writeStatus v).rejectCause = if v.getLsbD 3 then none else s.rejectCause := by
  unfold State.writeStatus; cases v.getLsbD 3 <;> rfl
@[simp] theorem writeStatus_rowOut (s : State) (v : Word) : (s.writeStatus v).rowOut = s.rowOut := by
  unfold State.writeStatus; cases v.getLsbD 3 <;> rfl
@[simp] theorem writeStatus_colOut (s : State) (v : Word) : (s.writeStatus v).colOut = s.colOut := by
  unfold State.writeStatus; cases v.getLsbD 3 <;> rfl
@[simp] theorem writeStatus_oe (s : State) (v : Word) : (s.writeStatus v).oe = s.oe := by
  unfold State.writeStatus; cases v.getLsbD 3 <;> rfl
@[simp] theorem writeStatus_an (s : State) (v : Word) : (s.writeStatus v).an = s.an := by
  unfold State.writeStatus; cases v.getLsbD 3 <;> rfl
@[simp] theorem writeStatus_op (s : State) (v : Word) : (s.writeStatus v).op = s.op := by
  unfold State.writeStatus; cases v.getLsbD 3 <;> rfl
@[simp] theorem writeStatus_phase (s : State) (v : Word) : (s.writeStatus v).phase = s.phase := by
  unfold State.writeStatus; cases v.getLsbD 3 <;> rfl
@[simp] theorem writeStatus_tWaitEnd (s : State) (v : Word) : (s.writeStatus v).tWaitEnd = s.tWaitEnd := by
  unfold State.writeStatus; cases v.getLsbD 3 <;> rfl
@[simp] theorem writeStatus_dispDeadline (s : State) (v : Word) : (s.writeStatus v).dispDeadline = s.dispDeadline := by
  unfold State.writeStatus; cases v.getLsbD 3 <;> rfl
@[simp] theorem writeStatus_abortReq (s : State) (v : Word) : (s.writeStatus v).abortReq = s.abortReq := by
  unfold State.writeStatus; cases v.getLsbD 3 <;> rfl
@[simp] theorem writeStatus_now (s : State) (v : Word) : (s.writeStatus v).now = s.now := by
  unfold State.writeStatus; cases v.getLsbD 3 <;> rfl
@[simp] theorem writeStatus_src (s : State) (v : Word) : (s.writeStatus v).src = s.src := by
  unfold State.writeStatus; cases v.getLsbD 3 <;> rfl
@[simp] theorem writeStatus_inputs (s : State) (v : Word) : (s.writeStatus v).inputs = s.inputs := by
  unfold State.writeStatus; cases v.getLsbD 3 <;> rfl
@[simp] theorem writeStatus_readData (s : State) (v : Word) : (s.writeStatus v).readData = s.readData := by
  unfold State.writeStatus; cases v.getLsbD 3 <;> rfl

end Sys2Proof.Machine
end

