-- ==== Sys2Proof/Laws/Ops.lean ====
section
/-! SUPPORT. What each shared operation can do, said once: proofs cite these and do not unfold the operation. -/

namespace Sys2Proof.Machine

/-- A command that runs to a next state was rejected, or was accepted and its body ran (rule R96). -/
theorem runCommand_next {i : Instr} {body : State → StepResult} {s t : State} (h : runCommand i body s = .next t) :
    (∃ c, s.gate i = some c ∧ t = s.rejectWith c) ∨ (s.gate i = none ∧ body (s.acceptCmd i) = .next t) := by
  unfold runCommand at h
  split at h
  · next c hc => cases h; exact .inl ⟨c, hc, rfl⟩
  · next hc => exact .inr ⟨hc, h⟩

theorem runCommand_accepted {i : Instr} {body : State → StepResult} {s : State} (h : s.gate i = none) :
    runCommand i body s = body (s.acceptCmd i) := by
  simp [runCommand, h]

theorem runCommand_rejected {i : Instr} {body : State → StepResult} {s : State} {c : RejectCause} (h : s.gate i = some c) :
    runCommand i body s = .next (s.rejectWith c) := by
  simp [runCommand, h]

/-- Every command but ABORT is accepted exactly in READY (rules R96, R298). -/
theorem gate_eq_none_iff {s : State} {i : Instr} (hi : i ≠ .abort) : s.gate i = none ↔ s.Ready := by
  unfold State.gate State.Ready
  cases s.inert <;> cases s.fault <;> cases s.op <;> simp [hi]

/-- ABORT is accepted exactly while a DISPLAY or an animation is in progress (rules R96, R256, R298). -/
theorem gate_abort_eq_none_iff {s : State} :
    s.gate .abort = none ↔ s.fault = false ∧ s.inert = false ∧ (s.op = .display ∨ s.op = .animate) := by
  unfold State.gate
  cases s.inert <;> cases s.fault <;> cases s.op <;> simp

theorem renderBegin_next {s t : State} : renderBegin s = .next t ↔ s.now + dwell s.cfg s.brightness < timeLimit ∧ t = s.beginDwell := by
  unfold renderBegin
  split
  · next h => simp; omega
  · next h => simp only [Host.Outcome.next.injEq]; constructor
              · rintro rfl; exact ⟨by omega, rfl⟩
              · rintro ⟨-, rfl⟩; rfl

theorem renderBegin_of_lt {s : State} (h : s.now + dwell s.cfg s.brightness < timeLimit) : renderBegin s = .next s.beginDwell :=
  renderBegin_next.mpr ⟨h, rfl⟩

/-- `DwellEnd` ends a standalone RENDER, or starts the tick wait of a long operation (rule R262). -/
theorem dwellEnd_next {s t : State} (h : dwellEnd s = .next t) :
    (s.op = .render ∧ t = { s.renderEnd with op := .none, phase := .idle, result := .ok }) ∨
    (s.op ≠ .render ∧ s.now + s.cfg.refreshTick < timeLimit ∧
      t = { s.renderEnd with tWaitEnd := s.now + s.cfg.refreshTick, phase := .tick }) := by
  unfold dwellEnd at h
  split at h
  · next hr => cases h; exact .inl ⟨hr, rfl⟩
  · next hr =>
    split at h
    · cases h
    · next hl => cases h; exact .inr ⟨hr, by omega, rfl⟩

/-- One loop head of an animation: a poll and what it does (rule R258). -/
theorem animateIter_next {s t : State} (h : animateIter s = .next t) :
    (s.now < s.an.next ∧ renderBegin s = .next t) ∨
    (s.an.next ≤ s.now ∧ s.an.index < s.an.length ∧
      renderBegin { s.applyFrame (animCurrent s.cfg s.src s.an) with an := animAdvance s.cfg s.an } = .next t) ∨
    (s.an.next ≤ s.now ∧ s.an.length ≤ s.an.index ∧ t = s.finish) := by
  unfold animateIter animPoll at h
  by_cases h1 : s.now < s.an.next
  · rw [if_pos h1] at h; exact .inl ⟨h1, h⟩
  · rw [if_neg h1] at h
    by_cases h2 : s.an.index < s.an.length
    · rw [if_pos h2] at h; exact .inr (.inl ⟨by omega, h2, h⟩)
    · rw [if_neg h2] at h; cases h; exact .inr (.inr ⟨by omega, by omega, rfl⟩)

/-- Construction succeeds with these registers (rule R186). -/
theorem animNew_ok {c : Config} {now : Nat} {kind : Kind} {base n : Word} {e : Effect} {d : Nat} {a : Anim}
    (h : animNew c now kind base n e d = .ok a) :
    0 < animLength c e n.toNat ∧ 0 < d / animLength c e n.toNat ∧ now + d < timeLimit ∧
      a = animStart now kind base n e (animLength c e n.toNat) (d / animLength c e n.toNat) := by
  unfold animNew at h
  simp only at h
  split at h
  · cases h
  · next h1 =>
    split at h
    · cases h
    · next h2 =>
      split at h
      · cases h
      · next h3 => cases h; exact ⟨Nat.pos_of_ne_zero h1, Nat.pos_of_ne_zero h2, Nat.lt_of_not_le h3, rfl⟩

/-- An animate command's body: `TooFast` and nothing else, or the first loop head of a constructed animation (rule R254). -/
theorem startAnimate_next {kind : Kind} {e : Effect} {d : Nat} {s t : State} (h : startAnimate kind e d s = .next t) :
    (animNew s.cfg s.now kind s.srcBase s.srcLen e d = .tooFast ∧ t = { s with result := .tooFast }) ∨
    (∃ a, animNew s.cfg s.now kind s.srcBase s.srcLen e d = .ok a ∧
      animateIter { s with an := a, op := .animate, abortReq := false, result := .pending } = .next t) := by
  unfold startAnimate at h
  split at h
  · next hc => cases h; exact .inl ⟨hc, rfl⟩
  · cases h
  · next a hc => exact .inr ⟨a, hc, h⟩

/-- `TickEnd`: ABORT wins, then the deadline of DISPLAY or the poll of an animation (rule R263). -/
theorem tickEnd_next {s t : State} (h : tickEnd s = .next t) :
    (s.abortReq = true ∧ t = s.abandon) ∨
    (s.abortReq = false ∧ s.op = .display ∧ s.dispDeadline ≤ s.now ∧ t = s.finish) ∨
    (s.abortReq = false ∧ s.op = .display ∧ s.now < s.dispDeadline ∧ renderBegin s = .next t) ∨
    (s.abortReq = false ∧ s.op ≠ .display ∧ animateIter s = .next t) := by
  unfold tickEnd at h
  cases ha : s.abortReq
  · simp only [ha, Bool.false_eq_true, if_false] at h
    split at h
    · next hd =>
      split at h
      · next hn => cases h; exact .inr (.inl ⟨rfl, hd, hn, rfl⟩)
      · next hn => exact .inr (.inr (.inl ⟨rfl, hd, by omega, h⟩))
    · next hd => exact .inr (.inr (.inr ⟨rfl, hd, h⟩))
  · simp only [ha, if_true] at h
    cases h; exact .inl ⟨rfl, rfl⟩

/-- The block's turn (rules R262, R263). -/
theorem blockStep_next {s t : State} (h : blockStep s = .next t) :
    (s.phase = .dwell ∧ s.tWaitEnd ≤ s.now ∧ dwellEnd s = .next t) ∨
    (s.phase = .tick ∧ (s.abortReq = true ∨ s.tWaitEnd ≤ s.now) ∧ tickEnd s = .next t) ∨
    (s.blockEnabled = false ∧ t = s) := by
  unfold blockStep at h
  split at h
  · next hd =>
    simp only [State.dwellEndEnabled, decide_eq_true_eq] at hd
    exact .inl ⟨hd.1, hd.2, h⟩
  · next hd =>
    split at h
    · next ht =>
      simp only [State.tickEndEnabled, decide_eq_true_eq] at ht
      exact .inr (.inl ⟨ht.1, ht.2, h⟩)
    · next ht => cases h; exact .inr (.inr ⟨by simp [State.blockEnabled, hd, ht], rfl⟩)

/-- The environment's move of time (rules R15, R337). -/
theorem setTime_next {n : Nat} {s t : State} (h : setTime n s = .next t) :
    s.now ≤ n ∧ n < timeLimit ∧ t = { s with now := n } := by
  unfold setTime at h
  split at h
  · cases h
  · split at h
    · cases h
    · cases h; exact ⟨by omega, by omega, rfl⟩

theorem freeRun_next {s t : State} (h : freeRun s = .next t) :
    (s.blockEnabled = true ∧ blockStep s = .next t) ∨
    (s.blockEnabled = false ∧ s.now + 1 < timeLimit ∧ t = { s with now := s.now + 1 }) := by
  unfold freeRun at h
  split at h
  · next hb => exact .inl ⟨hb, h⟩
  · next hb => exact .inr ⟨by simpa using hb, (setTime_next h).2⟩

/-- An access that runs to a next state was aligned and inside REG (rule R61). -/
theorem onPort_next {off : Nat} {r : StepResult} {t : State} (h : onPort off r = .next t) :
    off ≤ 0x7FC ∧ off % 4 = 0 ∧ r = .next t := by
  unfold onPort at h
  split at h
  · cases h
  · split at h
    · cases h
    · next h1 h2 => exact ⟨by omega, by omega, h⟩

/-- What a register write can change (rules R41 to R49, R71). -/
theorem regWrite_next {off : Nat} {v : Word} {s t : State} (h : regWrite off v s = .next t) :
    (off = 0 ∧ writeCmd v s = .next t) ∨ (off = 4 ∧ t = s.writeStatus v) ∨ (off = 8 ∧ t = { s with srcBase := v }) ∨
    (off = 0xC ∧ t = { s with srcLen := v }) ∨ (off = 0x10 ∧ t = { s with durationLo := v }) ∨
    (off = 0x14 ∧ t = { s with durationHi := v }) ∨ t = s := by
  unfold regWrite at h
  split at h
  · next e => exact .inl ⟨e, h⟩
  split at h
  · next e => cases h; exact .inr (.inl ⟨e, rfl⟩)
  split at h
  · next e => cases h; exact .inr (.inr (.inl ⟨e, rfl⟩))
  split at h
  · next e => cases h; exact .inr (.inr (.inr (.inl ⟨e, rfl⟩)))
  split at h
  · next e => cases h; exact .inr (.inr (.inr (.inr (.inl ⟨e, rfl⟩))))
  split at h
  · next e => cases h; exact .inr (.inr (.inr (.inr (.inr (.inl ⟨e, rfl⟩)))))
  · cases h; exact .inr (.inr (.inr (.inr (.inr (.inr rfl)))))

/-- A write of CMD runs a command or records a rejection (rule R96). -/
theorem writeCmd_next {w : Word} {s t : State} (h : writeCmd w s = .next t) :
    (∃ i, decodeWord w = .ok i ∧ exec i s = .next t) ∨
    (∃ c c', decodeWord w = .error c ∧ t = s.rejectWith c') := by
  unfold writeCmd at h
  split at h
  · next i hi => exact .inl ⟨i, hi, h⟩
  · next c hc => cases h; exact .inr ⟨c, _, hc, rfl⟩

end Sys2Proof.Machine
end

