-- ==== Sys2Proof/Laws/Exec.lean ====
section
/-! SUPPORT. What a command that answers a next state did: it was rejected, or it was accepted and ran one of the cases of `Ran`. -/

namespace Sys2Proof.Machine

/-- The animate commands, with the source kind, effect and duration each hands to `StartAnimate` (rules R246 to R252). -/
inductive Animates (s : State) : Instr → Kind → Effect → Nat → Prop
  | scroll : Animates s .scroll .bytes .slide (scrollDuration s)
  | scrollSpeed : Animates s .scrollSpeed .bytes .slide s.duration
  | animate (e : Effect) : Animates s (.animate e) .bytes e s.duration
  | animateFrames (e : Effect) : Animates s (.animateFrames e) .frames e s.duration

/-- What an accepted command does to the state that already records it (rules R168 to R170, R212 to R226, R242 to R256). -/
inductive Ran (s : State) : Instr → State → Prop
  | clear : Ran s .clear { s.clearAll with result := .ok }
  | on {x y : Nat} {f : Frame} (h : Frame.setPixel s.fb x y = .ok f) : Ran s (.on x y) { s with fb := f, result := .ok }
  | onFault {x y : Nat} {c : RangeFault} (h : Frame.setPixel s.fb x y = .error c) : Ran s (.on x y) (s.raiseFault c)
  | off {x y : Nat} {f : Frame} (h : Frame.clearPixel s.fb x y = .ok f) : Ran s (.off x y) { s with fb := f, result := .ok }
  | offFault {x y : Nat} {c : RangeFault} (h : Frame.clearPixel s.fb x y = .error c) : Ran s (.off x y) (s.raiseFault c)
  | apply : Ran s .apply { s.applyFrame (frameAt s.cfg s.src s.srcBase 0) with result := .ok }
  | setBrightness (v : Nat) : Ran s (.setBrightness v) { s with brightness := brightnessNew v, result := .ok }
  | incBrightness (v : Nat) : Ran s (.incBrightness v) { s with brightness := brightnessAdd s.brightness v, result := .ok }
  | decBrightness (v : Nat) : Ran s (.decBrightness v) { s with brightness := brightnessSub s.brightness v, result := .ok }
  | render {t : State} (h : renderBegin { s with op := .render, result := .pending } = .next t) : Ran s .render t
  | display {t : State} (hl : s.now + s.duration < timeLimit)
      (h : renderBegin
        { s.applyFrame (frameAt s.cfg s.src s.srcBase 0) with
          dispDeadline := s.now + s.duration, op := .display, abortReq := false, result := .pending } = .next t) :
      Ran s .display t
  | animates {i : Instr} {k : Kind} {e : Effect} {d : Nat} {t : State} (hi : Animates s i k e d)
      (h : startAnimate k e d s = .next t) : Ran s i t
  | release : Ran s .release { s with oe := false, inert := true, result := .ok }
  | abort : Ran s .abort { s with abortReq := true }

/-- What each command runs once it is accepted. -/
def commandBody (i : Instr) (s : State) : StepResult :=
  match i with
  | .clear => .next { s.clearAll with result := .ok }
  | .on x y => pixelResult (Frame.setPixel s.fb x y) s
  | .off x y => pixelResult (Frame.clearPixel s.fb x y) s
  | .apply => .next { s.applyFrame (frameAt s.cfg s.src s.srcBase 0) with result := .ok }
  | .setBrightness v => .next { s with brightness := brightnessNew v, result := .ok }
  | .incBrightness v => .next { s with brightness := brightnessAdd s.brightness v, result := .ok }
  | .decBrightness v => .next { s with brightness := brightnessSub s.brightness v, result := .ok }
  | .render => renderBegin { s with op := .render, result := .pending }
  | .display =>
    if timeLimit ≤ s.now + s.duration then .refused .timeOverflow
    else renderBegin
      { s.applyFrame (frameAt s.cfg s.src s.srcBase 0) with
        dispDeadline := s.now + s.duration, op := .display, abortReq := false, result := .pending }
  | .scroll => startAnimate .bytes .slide (scrollDuration s) s
  | .scrollSpeed => startAnimate .bytes .slide s.duration s
  | .animate e => startAnimate .bytes e s.duration s
  | .animateFrames e => startAnimate .frames e s.duration s
  | .release => .next { s with oe := false, inert := true, result := .ok }
  | .abort => .next { s with abortReq := true }

/-- Every command is the shared acceptance of rule R96 around its own body. -/
theorem exec_eq (i : Instr) (s : State) : exec i s = runCommand i (commandBody i) s := by
  cases i <;> rfl

/-- An accepted command is its body on the state that records it. -/
theorem exec_accepted {i : Instr} {s : State} (h : s.gate i = none) : exec i s = commandBody i (s.acceptCmd i) := by
  rw [exec_eq, runCommand_accepted h]

/-- A rejected command changes the rejection record and nothing else (rule R287). -/
theorem exec_rejected {i : Instr} {s : State} {c : RejectCause} (h : s.gate i = some c) : exec i s = .next (s.rejectWith c) := by
  rw [exec_eq, runCommand_rejected h]

/-- What a pixel command answers (rules R214, R216). -/
theorem pixelResult_next {r : Except RangeFault Frame} {s t : State} (h : pixelResult r s = .next t) :
    (∃ f, r = .ok f ∧ t = { s with fb := f, result := .ok }) ∨ (∃ c, r = .error c ∧ t = s.raiseFault c) := by
  cases r with
  | ok f => cases h; exact .inl ⟨f, rfl, rfl⟩
  | error c => cases h; exact .inr ⟨c, rfl, rfl⟩

/-- What an accepted command that answers a next state ran. -/
theorem commandBody_next {i : Instr} {s t : State} (h : commandBody i s = .next t) : Ran s i t := by
  cases i <;> simp only [commandBody] at h
  case clear => cases h; exact .clear
  case on =>
    rcases pixelResult_next h with ⟨f, hf, rfl⟩ | ⟨c, hc, rfl⟩
    · exact .on hf
    · exact .onFault hc
  case off =>
    rcases pixelResult_next h with ⟨f, hf, rfl⟩ | ⟨c, hc, rfl⟩
    · exact .off hf
    · exact .offFault hc
  case apply => cases h; exact .apply
  case setBrightness => cases h; exact .setBrightness _
  case incBrightness => cases h; exact .incBrightness _
  case decBrightness => cases h; exact .decBrightness _
  case render => exact .render h
  case display =>
    split at h
    · cases h
    · next hl => exact .display (Nat.lt_of_not_le hl) h
  case scroll => exact .animates .scroll h
  case scrollSpeed => exact .animates .scrollSpeed h
  case animate e => exact .animates (.animate e) h
  case animateFrames e => exact .animates (.animateFrames e) h
  case release => cases h; exact .release
  case abort => cases h; exact .abort

/-- The one case split over the commands: every frame and every whole-machine claim about a command starts here. -/
theorem exec_next {i : Instr} {s t : State} (h : exec i s = .next t) :
    (∃ c, s.gate i = some c ∧ t = s.rejectWith c) ∨ (s.gate i = none ∧ Ran (s.acceptCmd i) i t) := by
  rw [exec_eq] at h
  exact (runCommand_next h).imp_right fun hb => ⟨hb.1, commandBody_next hb.2⟩

end Sys2Proof.Machine
end

