-- ==== Sys2Proof/Laws/PerInstr.lean ====
section
/-! SUPPORT. Claims made per command: `EncodeFields`, what each field of an encoded command holds (rules R91, R92, R94). -/

namespace Sys2Proof.Laws.EncodeFields

/-- The fields of the word of a well-formed command are its opcode and operands, and every field its format does not use is zero. -/
def Statement (i : Instr) : Prop :=
  i.WellFormed →
    opcField (encode i) = i.opcode ∧ aField (encode i) = i.operandA ∧ bField (encode i) = i.operandB ∧
      encode i &&& ~~~i.format.fieldMask = 0#32

/-- What the fields need of a command: its opcode and operands fit them, and its operands fit its format. -/
theorem of_fits {i : Instr} (ho : i.opcode < 256) (ha : i.operandA < 256) (hb : i.operandB < 256)
    (hf : i.operandB * 65536 + i.operandA * 256 + i.opcode < 2 ^ i.format.width) :
    opcField (encode i) = i.opcode ∧ aField (encode i) = i.operandA ∧ bField (encode i) = i.operandB ∧
      encode i &&& ~~~i.format.fieldMask = 0#32 := by
  have he := encode_toNat i
  rw [Nat.mod_eq_of_lt ha, Nat.mod_eq_of_lt hb] at he
  refine ⟨?_, ?_, ?_, (reserved_zero_iff _ _).mpr (by rw [he]; exact hf)⟩
  · rw [opcField_eq, he]; omega
  · rw [aField_eq, he]; omega
  · rw [bField_eq, he]; omega

theorem clear : Statement .clear := fun _ => of_fits (by decide) (by decide) (by decide) (by decide)

theorem on (x y : Nat) : Statement (.on x y) := by
  intro h
  simp only [Instr.WellFormed, Instr.wellFormed, Bool.and_eq_true, decide_eq_true_eq] at h
  exact of_fits (by simp [Instr.opcode]) h.1 h.2 (by simp only [Instr.operandA, Instr.operandB, Instr.opcode, Instr.format, Format.width]; omega)

theorem off (x y : Nat) : Statement (.off x y) := by
  intro h
  simp only [Instr.WellFormed, Instr.wellFormed, Bool.and_eq_true, decide_eq_true_eq] at h
  exact of_fits (by simp [Instr.opcode]) h.1 h.2 (by simp only [Instr.operandA, Instr.operandB, Instr.opcode, Instr.format, Format.width]; omega)

theorem apply : Statement .apply := fun _ => of_fits (by decide) (by decide) (by decide) (by decide)

theorem setBrightness (level : Nat) : Statement (.setBrightness level) := by
  intro h
  simp only [Instr.WellFormed, Instr.wellFormed, decide_eq_true_eq] at h
  exact of_fits (by simp [Instr.opcode]) h (by simp [Instr.operandB])
    (by simp only [Instr.operandA, Instr.operandB, Instr.opcode, Instr.format, Format.width]; omega)

theorem incBrightness (amount : Nat) : Statement (.incBrightness amount) := by
  intro h
  simp only [Instr.WellFormed, Instr.wellFormed, decide_eq_true_eq] at h
  exact of_fits (by simp [Instr.opcode]) h (by simp [Instr.operandB])
    (by simp only [Instr.operandA, Instr.operandB, Instr.opcode, Instr.format, Format.width]; omega)

theorem decBrightness (amount : Nat) : Statement (.decBrightness amount) := by
  intro h
  simp only [Instr.WellFormed, Instr.wellFormed, decide_eq_true_eq] at h
  exact of_fits (by simp [Instr.opcode]) h (by simp [Instr.operandB])
    (by simp only [Instr.operandA, Instr.operandB, Instr.opcode, Instr.format, Format.width]; omega)

theorem render : Statement .render := fun _ => of_fits (by decide) (by decide) (by decide) (by decide)

theorem display : Statement .display := fun _ => of_fits (by decide) (by decide) (by decide) (by decide)

theorem scroll : Statement .scroll := fun _ => of_fits (by decide) (by decide) (by decide) (by decide)

theorem scrollSpeed : Statement .scrollSpeed := fun _ => of_fits (by decide) (by decide) (by decide) (by decide)

theorem animate (e : Effect) : Statement (.animate e) := by
  intro _; cases e <;> exact of_fits (by decide) (by decide) (by decide) (by decide)

theorem animateFrames (e : Effect) : Statement (.animateFrames e) := by
  intro _; cases e <;> exact of_fits (by decide) (by decide) (by decide) (by decide)

theorem release : Statement .release := fun _ => of_fits (by decide) (by decide) (by decide) (by decide)

theorem abort : Statement .abort := fun _ => of_fits (by decide) (by decide) (by decide) (by decide)

end Sys2Proof.Laws.EncodeFields
end

