-- ==== Sys2Proof/Laws/Sequencer.lean ====
section
/-! SUPPORT. The sequencer: the frame it shows is a frame of the block, and construction and every Apply event keep the progress
registers of rules R186, R192, R194. -/

namespace Sys2Proof.Machine

/-- The next source frame of `current()`, the empty frame after the last one (rule R190). -/
def animNextFrame (c : Config) (m : Memory) (a : Anim) : Frame :=
  if a.frameIndex + 1 < a.n.toNat then srcFrame c m a.kind a.base (a.frameIndex + 1) else Frame.empty c.cols c.rows

theorem animCurrent_eq (c : Config) (m : Memory) (a : Anim) :
    animCurrent c m a = Frame.orRows (Frame.shiftLeft (srcFrame c m a.kind a.base a.frameIndex) a.sequence)
      (Frame.shiftRight (animNextFrame c m a) (c.cols - a.sequence)) := rfl

theorem animNextFrame_shape (c : Config) (m : Memory) (a : Anim) : Frame.HasShape (animNextFrame c m a) c.cols c.rows := by
  unfold animNextFrame
  split
  · exact srcFrame_shape c m a.kind a.base _
  · exact Frame.empty_shape _ _

/-- The combine of `current()` is never one of unequal shapes, so the checked OR of rule R147 gives exactly this frame. -/
theorem animCurrent_or (c : Config) (m : Memory) (a : Anim) :
    Frame.or (Frame.shiftLeft (srcFrame c m a.kind a.base a.frameIndex) a.sequence)
      (Frame.shiftRight (animNextFrame c m a) (c.cols - a.sequence)) = some (animCurrent c m a) :=
  Frame.or_of_shape (Frame.shiftLeft_shape (srcFrame_shape c m _ _ _) _) (Frame.shiftRight_shape (animNextFrame_shape c m a) _)

theorem animCurrent_shape (c : Config) (m : Memory) (a : Anim) : Frame.HasShape (animCurrent c m a) c.cols c.rows :=
  Frame.orRows_shape (Frame.shiftLeft_shape (srcFrame_shape c m _ _ _) _) (Frame.shiftRight_shape (animNextFrame_shape c m a) _)

theorem animCurrent_canonical (c : Config) (m : Memory) (a : Anim) : Frame.Canonical (animCurrent c m a) :=
  Frame.orRows_canonical (Frame.shiftLeft_shape (srcFrame_shape c m _ _ _) _)
    (Frame.shiftRight_shape (animNextFrame_shape c m a) _)
    (Frame.shiftLeft_canonical (srcFrame_canonical c m _ _ _) _) (Frame.shiftRight_canonical _ _)

/-- What an Apply event changes of the registers (rule R192). -/
theorem animAdvance_spec (c : Config) (a : Anim) :
    (animAdvance c a).kind = a.kind ∧ (animAdvance c a).base = a.base ∧ (animAdvance c a).n = a.n ∧
      (animAdvance c a).effect = a.effect ∧ (animAdvance c a).length = a.length ∧ (animAdvance c a).wait = a.wait ∧
      (animAdvance c a).index = a.index + 1 ∧ (animAdvance c a).next = a.next + a.wait := by
  unfold animAdvance
  cases a.effect
  · simp
  · simp only; split <;> simp

theorem animAdvance_slide_wrap {c : Config} {a : Anim} (he : a.effect = .slide) (hs : a.sequence = c.cols - 1) :
    (animAdvance c a).sequence = 0 ∧ (animAdvance c a).frameIndex = a.frameIndex + 1 := by
  simp [animAdvance, he, hs]

theorem animAdvance_slide_step {c : Config} {a : Anim} (he : a.effect = .slide) (hs : a.sequence ≠ c.cols - 1) :
    (animAdvance c a).sequence = a.sequence + 1 ∧ (animAdvance c a).frameIndex = a.frameIndex := by
  simp [animAdvance, he, hs]

theorem animAdvance_none {c : Config} {a : Anim} (he : a.effect = .none) :
    (animAdvance c a).sequence = a.sequence ∧ (animAdvance c a).frameIndex = a.frameIndex + 1 := by
  simp [animAdvance, he]

/-- A running animation with an event still to come has a source element to show (rule R190: `current()` is called with
`an_frame_index < an_n` only). -/
theorem Anim.Running.frameIndex_lt {c : Config} {a : Anim} (h : a.Running c) (hi : a.index < a.length) : a.frameIndex < a.n.toNat := by
  cases he : a.effect
  · have := h.none_progress he
    have hl := h.length_eq
    simp only [animLength, he] at hl
    omega
  · have hp := h.slide_progress he
    have hl := h.length_eq
    simp only [animLength, he] at hl
    by_contra hc
    have : a.n.toNat * c.cols ≤ a.frameIndex * c.cols := Nat.mul_le_mul_right _ (by omega)
    omega

/-- An Apply event keeps the progress registers right (rules R192, R194). -/
theorem Anim.Running.advance {c : Config} {a : Anim} (h : a.Running c) (hi : a.index < a.length) (hc : 1 ≤ c.cols) :
    (animAdvance c a).Running c := by
  obtain ⟨-, -, hn, he, hl, hw, hx, ht⟩ := animAdvance_spec c a
  refine ⟨by rw [hn]; exact h.n_pos, by rw [hl, he, hn]; exact h.length_eq, by rw [hw]; exact h.wait_pos, by rw [hx, hl]; omega,
    ?_, ?_, ?_⟩
  · rw [he, hx]
    intro hs
    have hp := h.slide_progress hs
    by_cases hq : a.sequence = c.cols - 1
    · obtain ⟨h1, h2⟩ := animAdvance_slide_wrap hs hq
      rw [h1, h2, Nat.add_mul]; omega
    · obtain ⟨h1, h2⟩ := animAdvance_slide_step hs hq
      rw [h1, h2]; omega
  · rw [he, hx]
    intro hs
    have hp := h.none_progress hs
    obtain ⟨h1, h2⟩ := animAdvance_none (c := c) hs
    rw [h1, h2]; omega
  · rw [ht, hl, hx, hw]
    have := h.deadline_lt
    have e : (a.length - a.index) * a.wait = a.wait + (a.length - (a.index + 1)) * a.wait := by
      rw [show a.length - a.index = (a.length - (a.index + 1)) + 1 by omega, Nat.add_mul]; omega
    omega

/-- A running animation's registers fit their widths after an Apply event (rule R37). -/
theorem Anim.Fits.advance {c : Config} {a : Anim} (hf : a.Fits) (h : a.Running c) (hi : a.index < a.length) (hc : 1 ≤ c.cols)
    (hc8 : c.cols ≤ 8) : (animAdvance c a).Fits := by
  have hr := h.advance hi hc
  have hfi := h.frameIndex_lt hi
  have hn : a.n.toNat < 2 ^ 32 := a.n.isLt
  obtain ⟨-, -, -, he, hl, hw, hx, ht⟩ := animAdvance_spec c a
  have hd := hr.deadline_lt
  refine ⟨?_, ?_, by rw [hx]; have := hf.length_lt; omega, by rw [hl]; exact hf.length_lt, by rw [hw]; exact hf.wait_lt, by omega⟩
  · cases hs : a.effect
    · have := (animAdvance_none (c := c) hs).1
      have := hf.sequence_lt; omega
    · have := (hr.slide_progress (by rw [he]; exact hs)).1
      omega
  · cases hs : a.effect
    · have := (animAdvance_none (c := c) hs).2; omega
    · by_cases hq : a.sequence = c.cols - 1
      · have := (animAdvance_slide_wrap hs hq).2; omega
      · have := (animAdvance_slide_step hs hq).2; omega

/-- A constructed animation runs, at the start of its progress (rule R186). -/
theorem animNew_running {c : Config} {now : Nat} {kind : Kind} {base n : Word} {e : Effect} {d : Nat} {a : Anim}
    (h : animNew c now kind base n e d = .ok a) (hc : 1 ≤ c.cols) (hc8 : c.cols ≤ 8) : a.Running c ∧ a.Fits := by
  obtain ⟨hl, hw, ht, rfl⟩ := animNew_ok h
  have hn : n.toNat < 2 ^ 32 := n.isLt
  have hlen : animLength c e n.toNat ≤ 8 * n.toNat := by
    cases e
    · simp only [animLength]; omega
    · simp only [animLength]; rw [Nat.mul_comm]; exact Nat.mul_le_mul_right _ hc8
  have hmul : animLength c e n.toNat * (d / animLength c e n.toNat) ≤ d := Nat.mul_div_le d _
  have hdle : d / animLength c e n.toNat ≤ d := Nat.div_le_self _ _
  constructor
  · refine ⟨?_, rfl, hw, Nat.zero_le _, ?_, ?_, ?_⟩
    · simp only [animStart]
      rcases Nat.eq_zero_or_pos n.toNat with h0 | h0
      · cases e <;> simp [animLength, h0] at hl
      · exact h0
    · intro _; simp [animStart]; omega
    · intro _; simp [animStart]
    · simp only [animStart, Nat.sub_zero]; omega
  · refine ⟨by simp [animStart], by simp [animStart], by simp [animStart], ?_, ?_, ?_⟩
    · simp only [animStart]; omega
    · simp only [animStart]; omega
    · simp only [animStart]; omega

end Sys2Proof.Machine
end

