-- ==== Sys2Proof/Laws/Step.lean ====
section
/-! SUPPORT. What one step can do, said once (rule R15): every whole-machine claim starts from `step_next`. -/

namespace Sys2Proof.Machine

/-- One move of one agent. `l` and `r` are the inputs left and the word last read, which no rule of the block looks at. -/
inductive Moved (s t : State) : Prop
  /-- The block took its turn (rules R262, R263). -/
  | block (l : List Input) (r : Option Word)
      (head : s.inputs = [] ∨ s.inputs.head? = some .blockTurn ∨ s.inputs.head? = some .waitIdle ∨
        ∃ n, s.inputs.head? = some (.advanceTo n))
      (h : blockStep { s with inputs := l, readData := r } = .next t)
  /-- The environment advanced time (rule R15). -/
  | time (l : List Input) (r : Option Word) (n : Nat)
      (head : s.inputs = [] ∨ s.inputs.head? = some (.setNow n) ∨ s.inputs.head? = some .waitIdle ∨
        ∃ n', s.inputs.head? = some (.advanceTo n'))
      (hle : s.now ≤ n) (hlt : n < timeLimit) (h : t = { s with inputs := l, readData := r, now := n })
  /-- A host read, or a wait that is over (rules R73, R100). -/
  | quiet (l : List Input) (r : Option Word)
      (head : (∃ off, s.inputs.head? = some (.read off)) ∨ s.inputs.head? = some .waitIdle ∨
        ∃ n, s.inputs.head? = some (.advanceTo n))
      (h : t = { s with inputs := l, readData := r })
  /-- The host changed a byte of its source memory (rule R64). -/
  | source (a : Word) (v : Byte) (rest : List Input) (head : s.inputs = .srcWrite a v :: rest)
      (h : t = { s with inputs := rest, src := s.src.write a.toNat v })
  /-- Reset (rule R320). -/
  | reset (rest : List Input) (head : s.inputs = .reset :: rest) (h : t = ({ s with inputs := rest } : State).resetBlock)
  /-- The host wrote a register (rule R61). -/
  | write (off : Nat) (v : Word) (rest : List Input) (head : s.inputs = .write off v :: rest) (hoff : off ≤ 0x7FC)
      (hmod : off % 4 = 0) (h : regWrite off v { s with inputs := rest } = .next t)

theorem step_of_inputs {s : State} {i : Input} {rest : List Input} (h : s.inputs = i :: rest) :
    step s = runInput i { s with inputs := rest } := by
  simp [step, h]

theorem step_of_nil {s : State} (h : s.inputs = []) : step s = freeRun s := by
  simp [step, h]

/-- The one case split over the agents' moves. -/
theorem step_next {s t : State} (h : step s = .next t) : Moved s t := by
  cases hin : s.inputs with
  | nil =>
    rw [step_of_nil hin] at h
    rcases freeRun_next h with ⟨-, hb⟩ | ⟨-, hl, rfl⟩
    · exact .block s.inputs s.readData (.inl hin) hb
    · exact .time s.inputs s.readData (s.now + 1) (.inl hin) (Nat.le_succ _) hl rfl
  | cons i rest =>
    rw [step_of_inputs hin] at h
    have hh : s.inputs.head? = some i := by rw [hin]; rfl
    cases i with
    | read off =>
      obtain ⟨-, -, hr⟩ := onPort_next h
      cases hr; exact .quiet rest _ (.inl ⟨off, hh⟩) rfl
    | write off v =>
      obtain ⟨h1, h2, hr⟩ := onPort_next h
      exact .write off v rest hin h1 h2 hr
    | narrow => cases h
    | srcWrite a v => cases h; exact .source a v rest hin rfl
    | setNow n =>
      obtain ⟨h1, h2, rfl⟩ := setTime_next h
      exact .time rest s.readData n (.inr (.inl hh)) h1 h2 rfl
    | blockTurn => exact .block rest s.readData (.inr (.inl hh)) h
    | reset => cases h; exact .reset rest hin rfl
    | waitIdle =>
      simp only [runInput, waitIdle] at h
      split at h
      · rcases freeRun_next h with ⟨-, hb⟩ | ⟨-, hl, rfl⟩
        · exact .block _ _ (.inr (.inr (.inl hh))) hb
        · exact .time _ _ _ (.inr (.inr (.inl hh))) (Nat.le_succ _) hl rfl
      · cases h; exact .quiet rest _ (.inr (.inl hh)) rfl
    | advanceTo n =>
      simp only [runInput, advanceTo] at h
      split at h
      · cases h
      · split at h
        · rcases freeRun_next h with ⟨-, hb⟩ | ⟨-, hl, rfl⟩
          · exact .block _ _ (.inr (.inr (.inr ⟨n, hh⟩))) hb
          · exact .time _ _ _ (.inr (.inr (.inr ⟨n, hh⟩))) (Nat.le_succ _) hl rfl
        · cases h; exact .quiet rest s.readData (.inr (.inr ⟨n, hh⟩)) rfl

end Sys2Proof.Machine
end

