-- ==== Sys2Proof/Tests/Slice0.lean ====
section
/-! SUPPORT. The model's own tests. Expected results are those of spec/95_test_vectors.md (their ids in the comments) or of the spec's
encoding tables; after them one theorem per obligation with hypotheses, on a state that meets them. -/

namespace Sys2Proof.Tests

open Sys2Proof Sys2Proof.Machine

/-! ## The bench: the instance and the two frames of spec/95_test_vectors.md -/

/-- The instance of the vectors, with the lookup of program P4. -/
def bench : Config :=
  { Config.testBench with glyphs := [(0x48, [0x88#8, 0x88#8, 0xF8#8, 0x88#8, 0x88#8]), (0x69, [0x20#8, 0x00#8, 0x20#8, 0x20#8, 0x20#8])] }

/-- Frames A and B at 0x100 and the bytes of "Hi" at 0x200, as the vectors place them. -/
def benchSrc : Memory :=
  [(0x100, 0x88#8), (0x101, 0x88#8), (0x102, 0xF8#8), (0x103, 0x88#8), (0x104, 0x88#8), (0x105, 0x20#8), (0x107, 0x20#8)] ++
  [(0x108, 0x20#8), (0x109, 0x20#8), (0x200, 0x48#8), (0x201, 0x69#8)]

/-- After reset, with two source frames at 0x100 and DURATION 1000. -/
def ready : State :=
  { State.resetOf bench with src := benchSrc, srcBase := 0x100#32, srcLen := 2#32, durationLo := 1000#32 }

/-- The next state of an outcome; the reset state where it has none. -/
def go (r : StepResult) : State :=
  match r with
  | .next t => t
  | .fault _ => State.reset
  | .refused _ => State.reset

/-- The outcome is a next state. -/
def isNext (r : StepResult) : Bool :=
  match r with
  | .next _ => true
  | .fault _ => false
  | .refused _ => false

theorem next_go {r : StepResult} (h : isNext r = true) : r = .next (go r) := by
  cases r with
  | next t => rfl
  | fault f => cases h
  | refused f => cases h

/-- A host write of a command word, waiting to be taken. -/
def withWord (w : Word) (s : State) : State := { s with inputs := [.write 0x000 w] }

/-- The state after a command word is written. -/
def issue (w : Word) (s : State) : State := go (step (withWord w s))

/-- The block's turn at time `t`, waiting to be taken. -/
def withTurn (t : Nat) (s : State) : State := { s with now := t, inputs := [.blockTurn] }

/-- The state after the block's turn at time `t`. -/
def turn (t : Nat) (s : State) : State := go (step (withTurn t s))

/-- The rows of the frame buffer, as the vectors write a frame. -/
def rows (s : State) : List Byte := s.fb.map Bitmap.data

/-- A frame of the bench written as the vectors write it. -/
def frame (ds : List Byte) : Frame := ds.map (fun d => ⟨d, 5⟩)

def frameA : Frame := frame [0x88#8, 0x88#8, 0xF8#8, 0x88#8, 0x88#8]
def frameB : Frame := frame [0x20#8, 0x00#8, 0x20#8, 0x20#8, 0x20#8]

/-- A standalone RENDER in its dwell, which ends at 5. -/
def rendering : State := issue 0x00000008#32 ready
/-- A DISPLAY in its first dwell, which ends at 5. -/
def displaying : State := issue 0x00000009#32 ready
/-- A DISPLAY in its first tick wait, which ends at 25. -/
def displayTick : State := turn 5 displaying
/-- ANIMATE_FRAMES SLIDE over A and B in its first dwell (program P3). -/
def animating : State := issue 0x0000010D#32 ready
/-- The same in its first tick wait, which ends at 25. -/
def animateTick : State := turn 5 animating
/-- FAULTED, by an ON with `x = COLS`. -/
def faulted : State := issue 0x00000502#32 ready
/-- INERT. -/
def inert : State := issue 0x0000000E#32 ready
/-- READY with row 0 lit (program P1). -/
def lit : State := turn 5 (issue 0x00000008#32 (issue 0x00000202#32 ready))

/-! ## WellFormed: each check refuses a term that breaks it, and keeps the largest operand -/

theorem test_wf_on_x : ¬(Instr.on 256 0).WellFormed := by decide
theorem test_wf_on_y : ¬(Instr.on 0 256).WellFormed := by decide
theorem test_wf_off_x : ¬(Instr.off 256 0).WellFormed := by decide
theorem test_wf_off_y : ¬(Instr.off 0 256).WellFormed := by decide
theorem test_wf_setBrightness : ¬(Instr.setBrightness 256).WellFormed := by decide
theorem test_wf_incBrightness : ¬(Instr.incBrightness 256).WellFormed := by decide
theorem test_wf_decBrightness : ¬(Instr.decBrightness 256).WellFormed := by decide
theorem test_wf_largest : (Instr.on 255 255).WellFormed ∧ (Instr.decBrightness 255).WellFormed := by decide

/-! ## Decoding: one word per constructor, its fields written out in the order Z, B, A, OPC (rules R91, R94) -/

theorem test_decode_clear : decodeTableWord 32 0b00000000000000000000000000000001 = some .clear := by decide
theorem test_decode_on : decodeTableWord 32 0b00000000100001010000011100000010 = some (.on 7 133) := by decide
theorem test_decode_off : decodeTableWord 32 0b00000000000000101111111000000011 = some (.off 254 2) := by decide
theorem test_decode_apply : decodeTableWord 32 0b00000000000000000000000000000100 = some .apply := by decide
theorem test_decode_setBrightness : decodeTableWord 32 0b00000000000000000000111100000101 = some (.setBrightness 15) := by decide
theorem test_decode_incBrightness : decodeTableWord 32 0b00000000000000001111111100000110 = some (.incBrightness 255) := by decide
theorem test_decode_decBrightness : decodeTableWord 32 0b00000000000000001100100000000111 = some (.decBrightness 200) := by decide
theorem test_decode_render : decodeTableWord 32 0b00000000000000000000000000001000 = some .render := by decide
theorem test_decode_display : decodeTableWord 32 0b00000000000000000000000000001001 = some .display := by decide
theorem test_decode_scroll : decodeTableWord 32 0b00000000000000000000000000001010 = some .scroll := by decide
theorem test_decode_scrollSpeed : decodeTableWord 32 0b00000000000000000000000000001011 = some .scrollSpeed := by decide
theorem test_decode_animate : decodeTableWord 32 0b00000000000000000000000100001100 = some (.animate .slide) ∧
    decodeTableWord 32 0b00000000000000000000000000001100 = some (.animate .none) := by decide
theorem test_decode_animateFrames : decodeTableWord 32 0b00000000000000000000000100001101 = some (.animateFrames .slide) ∧
    decodeTableWord 32 0b00000000000000000000000000001101 = some (.animateFrames .none) := by decide
theorem test_decode_release : decodeTableWord 32 0b00000000000000000000000000001110 = some .release := by decide
theorem test_decode_abort : decodeTableWord 32 0b00000000000000000000000000001111 = some .abort := by decide

/-- Vectors V-DE-1 to V-DE-6: no command. -/
theorem test_decode_refuses :
    [0x00000000, 0x00000010, 0x000000FF, 0x00000101, 0x01000002, 0x0000020C, 0x00010005].map (decodeTableWord 32) =
      List.replicate 7 none := by decide

theorem test_encode : encode (.on 7 5) = 0x00050702#32 ∧ encode (.animateFrames .slide) = 0x0000010D#32 ∧
    encode (.decBrightness 200) = 0x0000C807#32 := by decide

/-- Vectors V-DE-1, 3, 7, 10, 11, 15: STATUS after the write. -/
theorem test_acceptance_status :
    (issue 0x00000000#32 ready).statusWord = 0x00002008#32 ∧ (issue 0x00000101#32 ready).statusWord = 0x00003008#32 ∧
    (issue 0x0000000F#32 ready).statusWord = 0x00006008#32 ∧ (issue 0x00000502#32 ready).statusWord = 0x00000202#32 ∧
    (issue 0x00050702#32 ready).statusWord = 0x00000102#32 ∧ (issue 0x00000001#32 inert).statusWord = 0x0000501C#32 := by decide

/-! ## Datapath -/

/-- V-BM-1, V-BM-2a. -/
theorem test_bitmap_new : Bitmap.new 0b10101#8 5 = ⟨0xA8#8, 5⟩ ∧ Bitmap.new 0b100101#8 5 = ⟨0x28#8, 5⟩ := by decide
/-- V-BM-8, V-BM-9, V-BM-9a, V-BM-11. -/
theorem test_bitmap_shift :
    ([0, 1, 2, 4, 5, 8].map (fun k => (Bitmap.shiftLeft ⟨0xA8#8, 5⟩ k).data) = [0xA8#8, 0x50#8, 0xA0#8, 0x80#8, 0#8, 0#8]) ∧
    ([0, 1, 2, 4, 5, 8].map (fun k => (Bitmap.shiftRight ⟨0xA8#8, 5⟩ k).data) = [0xA8#8, 0x50#8, 0x28#8, 0x08#8, 0#8, 0#8]) ∧
    (Bitmap.shiftRight ⟨0xF8#8, 5⟩ 1).data = 0x78#8 ∧ (Bitmap.shiftRight ⟨0xFF#8, 8⟩ 3).data = 0x1F#8 := by decide
/-- V-BM-12. -/
theorem test_bitmap_combine : Bitmap.or ⟨0x10#8, 5⟩ ⟨0x40#8, 5⟩ = some ⟨0x50#8, 5⟩ ∧
    Bitmap.and ⟨0xA8#8, 5⟩ ⟨0xC8#8, 5⟩ = some ⟨0x88#8, 5⟩ ∧ Bitmap.or ⟨0x10#8, 5⟩ ⟨0x40#8, 4⟩ = none := by decide
/-- V-BM-13. -/
theorem test_fieldMask : [1, 2, 3, 4, 5, 6, 7, 8].map fieldMask =
    [0x80#8, 0xC0#8, 0xE0#8, 0xF0#8, 0xF8#8, 0xFC#8, 0xFE#8, 0xFF#8] := by decide
/-- V-FR-8, V-FR-9. -/
theorem test_frame_combine :
    Frame.or (Frame.shiftLeft frameA 3) (Frame.shiftRight frameB 2) = some (frame [0x48#8, 0x40#8, 0xC8#8, 0x48#8, 0x48#8]) ∧
    Frame.and frameA frameB = some (frame [0#8, 0#8, 0x20#8, 0#8, 0#8]) := by decide
/-- V-BR-9, V-BR-10. -/
theorem test_dwell :
    (List.range 11).map (dwell { bench with kDwell := 7 }) = [7, 6, 5, 4, 4, 3, 2, 2, 1, 0, 0] ∧
    (List.range 11).map (dwell { bench with kDwell := 255 }) = [255, 229, 204, 178, 153, 127, 102, 76, 51, 25, 0] := by decide
/-- V-AN-2: the ten events of Slide over A and B, rows 0 and 2 of each. -/
theorem test_slide_events :
    (pollAll bench benchSrc (List.replicate 10 1000) (animStart 0 .frames 0x100#32 2#32 .slide 10 100)).1.map
        (fun f => (f.map Bitmap.data).take 3) =
      [[0x88#8, 0x88#8, 0xF8#8], [0x10#8, 0x10#8, 0xF0#8], [0x20#8, 0x20#8, 0xE0#8], [0x48#8, 0x40#8, 0xC8#8],
       [0x90#8, 0x80#8, 0x90#8], [0x20#8, 0#8, 0x20#8], [0x40#8, 0#8, 0x40#8], [0x80#8, 0#8, 0x80#8], [0#8, 0#8, 0#8],
       [0#8, 0#8, 0#8]] := by decide
/-- V-AN-5: a late poll keeps the deadlines. -/
theorem test_late_poll :
    (animPoll bench benchSrc 450 { animStart 0 .frames 0x100#32 2#32 .slide 10 100 with index := 2, sequence := 2, next := 200 }).2.next
      = 300 := by decide
/-- V-AN-4, V-AN-7. -/
theorem test_none_and_width_one :
    (pollAll bench benchSrc [1000, 1000, 1000] (animStart 0 .frames 0x100#32 2#32 .none 2 500)).1 = [frameA, frameB] ∧
    (pollAll { bench with cols := 1, rows := 1 } [(0, 0x80#8), (2, 0x80#8)] [9, 9, 9] (animStart 0 .frames 0#32 3#32 .slide 3 1)).1 =
      [[⟨0x80#8, 1⟩], [⟨0#8, 1⟩], [⟨0x80#8, 1⟩]] := by decide

/-! ## Source memory -/

theorem test_memory_write_orders : Memory.write [(5, 1#8)] 3 2#8 = [(3, 2#8), (5, 1#8)] := by decide
theorem test_memory_write_removes : Memory.write [(3, 2#8), (5, 1#8)] 3 0#8 = [(5, 1#8)] := by decide
theorem test_memory_wf : Memory.wf benchSrc = true ∧ Memory.wf [(5, 1#8), (3, 2#8)] = false ∧ Memory.wf [(5, 0#8)] = false ∧
    Memory.wf [(2 ^ 32, 1#8)] = false := by decide

/-! ## One command, one step -/

theorem test_clear : rows (issue 0x00000001#32 lit) = [0#8, 0#8, 0#8, 0#8, 0#8] ∧ (issue 0x00000001#32 lit).colOut.all not ∧
    (issue 0x00000001#32 lit).rowP = 1 := by decide
/-- V-DE-9. -/
theorem test_on : rows (issue 0x00040402#32 ready) = [0#8, 0#8, 0#8, 0#8, 0x08#8] := by decide
/-- V-DE-11. -/
theorem test_on_fault : (issue 0x00050702#32 ready).faultCause = some .yRange ∧ (issue 0x00050702#32 ready).cmdLast = 0x00050702#32 := by
  decide
/-- Rule R216's example. -/
theorem test_off : rows (issue 0x00000003#32 { ready with fb := frame [0xF8#8, 0#8, 0#8, 0#8, 0#8] }) =
    [0x78#8, 0#8, 0#8, 0#8, 0#8] := by decide
theorem test_off_fault : (issue 0x00000703#32 ready).faultCause = some .xRange := by decide
/-- V-ME-1. -/
theorem test_apply_masks : rows (issue 0x00000004#32 { ready with src := [(0x100, 0x8F#8), (0x101, 0xFF#8)] }) =
    [0x88#8, 0xF8#8, 0#8, 0#8, 0#8] := by decide
/-- V-ME-2. -/
theorem test_apply_wraps :
    rows (issue 0x00000004#32 { ready with
      srcBase := 0xFFFFFFFE#32, src := [(0, 0x20#8), (1, 0x10#8), (2, 0x08#8), (0xFFFFFFFE, 0x80#8), (0xFFFFFFFF, 0x40#8)] }) =
    [0x80#8, 0x40#8, 0x20#8, 0x10#8, 0x08#8] := by decide
/-- V-BR-5. -/
theorem test_setBrightness : (issue 0x00000F05#32 ready).brightness = 10 := by decide
theorem test_incBrightness : (issue 0x00000306#32 { ready with brightness := 8 }).brightness = 10 := by decide
theorem test_decBrightness : (issue 0x00000307#32 ready).brightness = 2 ∧ (issue 0x0000C807#32 ready).brightness = 0 := by decide
/-- Program P1 at 0. -/
theorem test_render : (issue 0x00000008#32 (issue 0x00000202#32 ready)).colOut = [false, false, true, false, false] ∧
    (issue 0x00000008#32 (issue 0x00000202#32 ready)).tWaitEnd = 5 := by decide
/-- Program P1 at 5. -/
theorem test_dwellEnd : lit.rowOut = [true, false, false, false, false] ∧ lit.rowP = 1 ∧ lit.statusWord = 0x00000010#32 := by decide
/-- Program P7 at 0. -/
theorem test_display : rows displaying = [0x88#8, 0x88#8, 0xF8#8, 0x88#8, 0x88#8] ∧ displaying.dispDeadline = 1000 ∧
    displaying.statusWord = 0x00000041#32 := by decide
theorem test_display_ends : rows (turn 1000 { displayTick with tWaitEnd := 1000 }) = [0#8, 0#8, 0#8, 0#8, 0#8] ∧
    (turn 1000 { displayTick with tWaitEnd := 1000 }).statusWord = 0x00000010#32 := by decide
/-- Program P4. -/
theorem test_scroll : (issue 0x0000000A#32 { ready with srcBase := 0x200#32 }).an.wait = 100 ∧
    rows (issue 0x0000000A#32 { ready with srcBase := 0x200#32 }) = [0x88#8, 0x88#8, 0xF8#8, 0x88#8, 0x88#8] := by decide
/-- Program P4, the variant of one byte. -/
theorem test_scroll_tooFast : (issue 0x0000000A#32 { ready with srcLen := 1#32 }).statusWord = 0x00000020#32 := by decide
theorem test_scrollSpeed : (issue 0x0000000B#32 { ready with srcBase := 0x200#32, durationLo := 55#32 }).an.wait = 5 := by decide
theorem test_animate : rows (issue 0x0000000C#32 { ready with srcBase := 0x201#32 }) = [0x20#8, 0#8, 0x20#8, 0x20#8, 0x20#8] ∧
    (issue 0x0000000C#32 { ready with srcBase := 0x201#32 }).an.wait = 500 := by decide
/-- Program P3 at 0. -/
theorem test_animateFrames : animating.an.sequence = 1 ∧ animating.an.next = 100 ∧
    animating.colOut = [true, false, false, false, true] ∧ animating.statusWord = 0x00000041#32 := by decide
/-- Program P3 at 100. -/
theorem test_animate_second_event : rows (turn 100 animateTick) = [0x10#8, 0x10#8, 0xF0#8, 0x10#8, 0x10#8] ∧
    (turn 100 animateTick).an.next = 200 := by decide
/-- Program P8 at 5. -/
theorem test_release : (issue 0x0000000E#32 lit).statusWord = 0x00000014#32 ∧ (issue 0x0000000E#32 lit).lit 2 0 = false ∧
    lit.lit 2 0 = true := by decide
/-- Program P7 at 27 and 30. -/
theorem test_abort : (issue 0x0000000F#32 displaying).statusWord = 0x00000041#32 ∧
    (turn 6 (issue 0x0000000F#32 displayTick)).statusWord = 0x00000030#32 := by decide
/-- Program P7 at 10: a command while BUSY. -/
theorem test_busy_rejects : (issue 0x00000001#32 displayTick).statusWord = 0x00001049#32 ∧
    (issue 0x00000001#32 displayTick).cmdLast = 0x00000009#32 := by decide

/-! ## The register port and the agents -/

/-- V-ME-5. -/
theorem test_reads_after_reset : [0x020, 0x018, 0x01C, 0x004, 0x000].map (State.resetOf bench).regRead =
    [0x00000505#32, 5#32, 0#32, 0#32, 0#32] := by decide
/-- V-ME-4. -/
theorem test_read_fbrow : [0x400, 0x408, 0x414].map displaying.regRead = [0x00000088#32, 0x000000F8#32, 0#32] := by decide
/-- V-ME-7. -/
theorem test_set_duration : textSetDuration 0x100000005 = [.write 0x010 5#32, .write 0x014 1#32] := by decide
/-- V-DE-14. -/
theorem test_clr_reject : (go (step { issue 0x00000000#32 ready with inputs := [textClrReject] })).statusWord = 0#32 := by decide
/-- Rule R71's two refusals, and the end of the window (rule R61). -/
theorem test_port_stops : isNext (step { ready with inputs := [.read 2] }) = false ∧
    isNext (step { ready with inputs := [.narrow 0 1] }) = false ∧ isNext (step { ready with inputs := [.write 0x800 0#32] }) = false ∧
    isNext (step { ready with inputs := [.read 0x7FC] }) = true := by decide
/-- Rule R320, in the middle of an animation. -/
theorem test_reset_input : (go (step { animateTick with inputs := [.reset] })).statusWord = 0#32 ∧
    (go (step { animateTick with inputs := [.reset] })).srcBase = 0#32 := by decide
theorem test_withFetchWord : (go (step (State.reset.withFetchWord 32 0x00000F05))).brightness = 10 := by decide

/-! ## States that meet the hypotheses of the obligations -/

/-- What `State.Inv` asks of a state, as a test that can be computed, but for the registers of a running animation. -/
def invTest (s : State) : Bool :=
  decide (s.cfg.WellFormed) && decide (Frame.HasShape s.fb s.cfg.cols s.cfg.rows) && decide (∀ row ∈ s.fb, row.Canonical) &&
  decide (s.rowP < s.cfg.rows) && decide (s.brightness ≤ brMax) && decide (s.rowOut.length = s.cfg.rows) &&
  decide (s.colOut.length = s.cfg.cols) && decide (s.rowOut.count true ≤ 1) &&
  decide (s.phase = .dwell → s.rowOut = List.replicate s.cfg.rows false) && decide (s.op = .none ↔ s.phase = .idle) &&
  decide (s.op = .render → s.phase = .dwell) && decide (s.abortReq = true → s.op = .display ∨ s.op = .animate) &&
  decide (s.result = .pending ↔ s.op ≠ .none) && decide (s.fault = true → s.op = .none) && decide (s.inert = true → s.op = .none) &&
  decide (s.oe = false ↔ s.inert = true) && decide (¬(s.fault = true ∧ s.inert = true)) &&
  decide (s.fault = true ↔ s.faultCause ≠ none) && decide (s.reject = true ↔ s.rejectCause ≠ none) &&
  decide (s.an.sequence < 2 ^ 4 ∧ s.an.frameIndex < 2 ^ 32 ∧ s.an.index < 2 ^ 36 ∧ s.an.length < 2 ^ 36 ∧ s.an.wait < timeLimit ∧
    s.an.next < timeLimit) &&
  decide (s.now < timeLimit) && decide (s.tWaitEnd < timeLimit) && decide (s.dispDeadline < timeLimit) && s.src.wf

/-- What `Anim.Running` asks, as a test that can be computed. -/
def runningTest (c : Config) (a : Anim) : Bool :=
  decide (1 ≤ a.n.toNat) && decide (a.length = animLength c a.effect a.n.toNat) && decide (1 ≤ a.wait) &&
  decide (a.index ≤ a.length) && decide (a.effect = .slide → a.sequence < c.cols ∧ a.index = a.frameIndex * c.cols + a.sequence) &&
  decide (a.effect = .none → a.sequence = 0 ∧ a.index = a.frameIndex) &&
  decide (a.next + (a.length - a.index) * a.wait < timeLimit)

theorem running_of {c : Config} {a : Anim} (h : runningTest c a = true) : a.Running c := by
  simp only [runningTest, Bool.and_eq_true, decide_eq_true_eq] at h
  obtain ⟨⟨⟨⟨⟨⟨h1, h2⟩, h3⟩, h4⟩, h5⟩, h6⟩, h7⟩ := h
  exact ⟨h1, h2, h3, h4, h5, h6, h7⟩

theorem inv_of {s : State} (h : invTest s = true) (hr : s.op = .animate → runningTest s.cfg s.an = true) : s.Inv := by
  simp only [invTest, Bool.and_eq_true, decide_eq_true_eq] at h
  obtain ⟨⟨⟨⟨⟨⟨⟨⟨⟨⟨⟨⟨⟨⟨⟨⟨⟨⟨⟨⟨⟨⟨⟨h1, h2⟩, h3⟩, h4⟩, h5⟩, h6⟩, h7⟩, h8⟩, h9⟩, h10⟩, h11⟩, h12⟩, h13⟩, h14⟩, h15⟩, h16⟩, h17⟩, h18⟩, h19⟩,
    ⟨a1, a2, a3, a4, a5, a6⟩⟩, h21⟩, h22⟩, h23⟩, h24⟩ := h
  exact ⟨h1, h2, h3, h4, h5, h6, h7, h8, h9, h10, h11, h12, h13, h14, h15, h16, h17, h18, h19, ⟨a1, a2, a3, a4, a5, a6⟩,
    fun ho => running_of (hr ho), h21, h22, h23, h24⟩

/-- The scan picture, from rows inside the matrix alone. -/
theorem picture_of {s : State} (hl : s.rowOut.length = s.cfg.rows) (hr : s.lastRow < s.cfg.rows)
    (hd : s.phase = .dwell → ∀ x < s.cfg.cols, s.colOut[x]? = some (s.pixel x s.rowP))
    (ht : s.phase = .tick → ∀ y < s.cfg.rows, s.rowOut.getD y false = decide (y = s.lastRow))
    (hc : s.phase = .tick → ∀ x < s.cfg.cols, s.colOut[x]? = some (s.pixel x s.lastRow)) : s.ScanPicture := by
  refine ⟨hd, fun hp y => ?_, hc⟩
  by_cases hy : y < s.cfg.rows
  · exact ht hp y hy
  · rw [List.getD_eq_default _ _ (by omega)]
    exact (decide_eq_false (by omega)).symm

theorem ready_inv : ready.Inv := inv_of (by decide) (by decide)
theorem rendering_inv : rendering.Inv := inv_of (by decide) (by decide)
theorem displaying_inv : displaying.Inv := inv_of (by decide) (by decide)
theorem displayTick_inv : displayTick.Inv := inv_of (by decide) (by decide)
theorem animating_inv : animating.Inv := inv_of (by decide) (by decide)
theorem animateTick_inv : animateTick.Inv := inv_of (by decide) (by decide)
theorem faulted_inv : faulted.Inv := inv_of (by decide) (by decide)
theorem inert_inv : inert.Inv := inv_of (by decide) (by decide)
theorem lit_inv : lit.Inv := inv_of (by decide) (by decide)

/-- The inputs of a state are of no account to its invariant. -/
theorem inv_inputs {s : State} (h : s.Inv) (l : List Input) : ({ s with inputs := l } : State).Inv :=
  ⟨h.1, h.2, h.3, h.4, h.5, h.6, h.7, h.8, h.9, h.10, h.11, h.12, h.13, h.14, h.15, h.16, h.17, h.18, h.19, h.20, h.21, h.22, h.23,
    h.24, h.25⟩

/-! ### Encoding and acceptance -/

theorem witness_DecodeOfEncodeIsIdentity : (Instr.on 255 255).WellFormed ∧ (Instr.decBrightness 0).WellFormed := by decide

theorem witness_EncodeOfDecodeIsIdentity : decodeWord 0x00FFFF02#32 = .ok (.on 255 255) ∧ decodeWord 0x0000010C#32 = .ok (.animate .slide) :=
  ⟨rfl, rfl⟩

theorem witness_DecodeSelectsByMaskAndMatch : (⟨0x01, 0x00000001#32, 0xFFFFFFFF#32⟩ : OpcodeRow) ∈ opcodeTable ∧
    (⟨0x0F, 0x0000000F#32, 0xFFFFFFFF#32⟩ : OpcodeRow) ∈ opcodeTable := by decide

theorem witness_IllegalAndReservedWordsAreRejected :
    (withWord 0x00000010#32 ready).Ready ∧ (withWord 0x00000010#32 ready).inputs = .write 0x000 0x00000010#32 :: [] ∧
    0x10 ≤ opcField 0x00000010#32 ∧ opcField 0#32 = 0 ∧ (⟨0x0C, 0x0000000C#32, 0xFFFFFEFF#32⟩ : OpcodeRow) ∈ opcodeTable ∧
    opcField 0x0000020C#32 = 0x0C ∧ 0x0000020C#32 &&& 0xFFFFFEFF#32 ≠ 0x0000000C#32 := by decide

theorem witness_StepRunsTheDecodedCommand :
    (withWord 0x00000502#32 displayTick).inputs = .write 0x000 0x00000502#32 :: [] ∧ decodeWord 0x00000502#32 = .ok (.on 5 0) := ⟨rfl, rfl⟩

/-- One state for each line of the procedure. -/
theorem witness_CommandWritesFollowTheAcceptanceOrder :
    inert.inert = true ∧ (faulted.inert = false ∧ faulted.fault = true) ∧ (ready.inert = false ∧ ready.fault = false) ∧
    (¬∃ row ∈ opcodeTable, opcField 0x00000010#32 = row.opc) ∧
    (∃ row ∈ opcodeTable, opcField 0x01000002#32 = row.opc ∧ 0x01000002#32 &&& row.mask ≠ row.pattern) ∧
    (¬∃ row ∈ opcodeTable, opcField 0x0000000F#32 = row.opc ∧ 0x0000000F#32 &&& row.mask ≠ row.pattern) ∧
    opcField 0x0000000F#32 = 0x0F ∧ displayTick.op = .display ∧ animating.op = .animate ∧ rendering.op = .render ∧ ready.op = .none ∧
    (∃ row ∈ opcodeTable, opcField 0x00000001#32 = row.opc) ∧ opcField 0x00000001#32 ≠ 0x0F ∧
    isNext (step (withWord 0x00000001#32 ready)) = true ∧ isNext (step (withWord 0x0000000F#32 displayTick)) = true := by decide

theorem witness_CommandsLeaveTheirSurroundings :
    exec (.animateFrames .slide) ready = .next (go (exec (.animateFrames .slide) ready)) := next_go (by decide)

/-! ### Invariants -/

theorem witness_StepKeepsInvariant :
    (withTurn 100 animateTick).Inv ∧ step (withTurn 100 animateTick) = .next (turn 100 animateTick) :=
  ⟨inv_of (by decide) (by decide), next_go (by decide)⟩

theorem witness_ResetMeetsInvariant : ({ bench with cols := 1, rows := 1 } : Config).WellFormed ∧
    ({ bench with cols := 8, rows := 255, kDwell := 0, refreshTick := 1, scrollUnit := 1 } : Config).WellFormed := by decide

theorem displaying_picture : displaying.ScanPicture := picture_of (by decide) (by decide) (by decide) (by decide) (by decide)
theorem displayTick_picture : displayTick.ScanPicture := picture_of (by decide) (by decide) (by decide) (by decide) (by decide)

theorem witness_StepKeepsScanPicture :
    ((withTurn 5 displaying).Inv ∧ (withTurn 5 displaying).ScanPicture ∧ step (withTurn 5 displaying) = .next displayTick) ∧
    ((withTurn 25 displayTick).Inv ∧ (withTurn 25 displayTick).ScanPicture ∧
      step (withTurn 25 displayTick) = .next (turn 25 displayTick)) :=
  ⟨⟨inv_of (by decide) (by decide), picture_of (by decide) (by decide) (by decide) (by decide) (by decide), next_go (by decide)⟩,
   ⟨inv_of (by decide) (by decide), picture_of (by decide) (by decide) (by decide) (by decide) (by decide), next_go (by decide)⟩⟩

theorem witness_BusyBlockLightsOnlyBufferPixels :
    displayTick.Inv ∧ displayTick.ScanPicture ∧ displayTick.Busy ∧ displayTick.lit 4 0 = true :=
  ⟨displayTick_inv, displayTick_picture, by decide, by decide⟩

theorem witness_AtMostOneRowIsLit : displayTick.Inv ∧ displayTick.lit 0 0 = true ∧ displayTick.lit 4 0 = true :=
  ⟨displayTick_inv, by decide⟩

theorem witness_ExactlyOneOperatingCondition :
    (ready.Inv ∧ ready.Ready) ∧ (displaying.Inv ∧ displaying.Busy) ∧ (faulted.Inv ∧ faulted.Faulted) ∧ (inert.Inv ∧ inert.Inert) :=
  ⟨⟨ready_inv, by decide⟩, ⟨displaying_inv, by decide⟩, ⟨faulted_inv, by decide⟩, ⟨inert_inv, by decide⟩⟩

/-! ### The whole machine -/

/-- Every change of condition of rule R298's table, in one step each. -/
theorem witness_ConditionsChangeOnlyAsTabled :
    ((withWord 0x00000009#32 ready).Inv ∧ step (withWord 0x00000009#32 ready) = .next displaying ∧
      (withWord 0x00000009#32 ready).Ready ∧ displaying.Busy) ∧
    (step (withWord 0x00000502#32 ready) = .next faulted ∧ faulted.Faulted) ∧
    (step (withWord 0x0000000E#32 ready) = .next inert ∧ inert.Inert) ∧
    ((withTurn 5 rendering).Inv ∧ step (withTurn 5 rendering) = .next (turn 5 rendering) ∧
      (withTurn 5 rendering).Busy ∧ (turn 5 rendering).Ready) ∧
    (({ faulted with inputs := [.reset] } : State).Inv ∧ isNext (step { faulted with inputs := [.reset] }) = true ∧
      ¬(go (step { faulted with inputs := [.reset] })).Faulted) ∧
    (({ inert with inputs := [.reset] } : State).Inv ∧ isNext (step { inert with inputs := [.reset] }) = true ∧
      ¬(go (step { inert with inputs := [.reset] })).Inert) :=
  ⟨⟨inv_inputs ready_inv _, next_go (by decide), by decide⟩, ⟨next_go (by decide), by decide⟩, ⟨next_go (by decide), by decide⟩,
   ⟨inv_of (by decide) (by decide), next_go (by decide), by decide⟩, ⟨inv_inputs faulted_inv _, by decide⟩,
   ⟨inv_inputs inert_inv _, by decide⟩⟩

theorem witness_FaultedBlockHoldsUntilReset :
    (withWord 0x00000001#32 faulted).Inv ∧ (withWord 0x00000001#32 faulted).Faulted ∧
    (withWord 0x00000001#32 faulted).inputs.head? ≠ some .reset ∧
    step (withWord 0x00000001#32 faulted) = .next (issue 0x00000001#32 faulted) :=
  ⟨inv_inputs faulted_inv _, by decide, by decide, next_go (by decide)⟩

theorem witness_InertBlockHoldsUntilReset :
    (withWord 0x00000001#32 inert).Inv ∧ (withWord 0x00000001#32 inert).Inert ∧
    (withWord 0x00000001#32 inert).inputs.head? ≠ some .reset ∧
    step (withWord 0x00000001#32 inert) = .next (issue 0x00000001#32 inert) :=
  ⟨inv_inputs inert_inv _, by decide, by decide, next_go (by decide)⟩

theorem witness_OnlyPixelCommandsFault :
    (withWord 0x00000502#32 ready).Inv ∧ step (withWord 0x00000502#32 ready) = .next faulted ∧
    (withWord 0x00000502#32 ready).fault = false ∧ faulted.fault = true :=
  ⟨inv_inputs ready_inv _, next_go (by decide), by decide⟩

theorem witness_OnlyTheHostWritesSourceMemory :
    (({ ready with inputs := [.srcWrite 0xFFFFFFFF#32 0x80#8] } : State).Inv ∧
      isNext (step { ready with inputs := [.srcWrite 0xFFFFFFFF#32 0x80#8] }) = true) ∧
    ((withTurn 100 animateTick).Inv ∧ isNext (step (withTurn 100 animateTick)) = true ∧
      ∀ a v, (withTurn 100 animateTick).inputs.head? ≠ some (.srcWrite a v)) :=
  ⟨⟨inv_inputs ready_inv _, by decide⟩, inv_of (by decide) (by decide), by decide, fun _ _ h => by cases h⟩

theorem witness_OnlyTheEnvironmentAdvancesTime :
    step ready = .next (go (step ready)) ∧ (go (step ready)).now ≠ ready.now ∧
    (go (step { ready with inputs := [.setNow (2 ^ 64 - 1)] })).now ≠ ready.now := ⟨next_go (by decide), by decide⟩

theorem witness_OnlyBrightnessCommandsWriteBrightness :
    step (withWord 0x00000F05#32 ready) = .next (issue 0x00000F05#32 ready) ∧
    (issue 0x00000F05#32 ready).brightness ≠ (withWord 0x00000F05#32 ready).brightness ∧
    (go (step { ready with brightness := 10, inputs := [.reset] })).brightness ≠ 10 := ⟨next_go (by decide), by decide⟩

theorem witness_OnlyRenderEndAdvancesTheScanPointer :
    ((withTurn 5 { displaying with rowP := 4 }).Inv ∧ isNext (step (withTurn 5 { displaying with rowP := 4 })) = true ∧
      (turn 5 { displaying with rowP := 4 }).rowP ≠ 4) ∧
    (({ lit with inputs := [.reset] } : State).Inv ∧ isNext (step { lit with inputs := [.reset] }) = true ∧
      (go (step { lit with inputs := [.reset] })).rowP ≠ lit.rowP) :=
  ⟨⟨inv_of (by decide) (by decide), by decide⟩, inv_inputs lit_inv _, by decide⟩

theorem witness_HostCannotDisturbABusyBlock :
    (withWord 0x00000001#32 displayTick).Inv ∧ (withWord 0x00000001#32 displayTick).Busy ∧
    (withWord 0x00000001#32 displayTick).inputs = .write 0x000 0x00000001#32 :: [] ∧ 0x000 % 4 = 0 ∧ 0x7FC % 4 = 0 ∧ 0x7FC ≤ 0x7FC :=
  ⟨inv_inputs displayTick_inv _, by decide⟩

/-- One step of each outcome. -/
theorem witness_PolarityReachesThePinsOnly :
    step (withTurn 5 displaying) = .next displayTick ∧ step { ready with inputs := [.read 0x800] } = .fault .offsetOutsideReg ∧
    step { ready with inputs := [.read 2] } = .refused .unalignedAccess := ⟨next_go (by decide), rfl, rfl⟩

theorem witness_NothingDependsOnTheOutputs :
    step (withTurn 25 displayTick) = .next (turn 25 displayTick) ∧
    step { lit with inputs := [.write 0x800 0#32] } = .fault .offsetOutsideReg ∧
    step { lit with inputs := [.narrow 0x000 1] } = .refused .narrowAccess := ⟨next_go (by decide), rfl, rfl⟩

/-! ### Buffer, brightness, release -/

theorem witness_ClearDarkensEverything : lit.Ready := by decide

/-- In range, `y` out of range, `x` alone out of range. -/
theorem witness_OnSetsExactlyThatPixel : ready.Inv ∧ ready.Ready ∧ (4 < ready.cfg.cols ∧ 4 < ready.cfg.rows) ∧ ready.cfg.rows ≤ 5 ∧
    (4 < ready.cfg.rows ∧ ready.cfg.cols ≤ 5) := ⟨ready_inv, by decide⟩

theorem witness_OffClearsExactlyThatPixel : lit.Inv ∧ lit.Ready ∧ (2 < lit.cfg.cols ∧ 0 < lit.cfg.rows) ∧ lit.cfg.rows ≤ 5 ∧
    (4 < lit.cfg.rows ∧ lit.cfg.cols ≤ 5) := ⟨lit_inv, by decide⟩

theorem witness_FaultEntryIsPrecise :
    (withWord 0x00050702#32 ready).Inv ∧ step (withWord 0x00050702#32 ready) = .next (issue 0x00050702#32 ready) ∧
    (withWord 0x00050702#32 ready).fault = false ∧ (issue 0x00050702#32 ready).fault = true :=
  ⟨inv_inputs ready_inv _, next_go (by decide), by decide⟩

theorem witness_ApplyLoadsTheFrameAtSrcBase :
    ready.Inv ∧ ready.Ready ∧ ({ ready with srcBase := 0xFFFFFFFF#32 } : State).Inv ∧ ({ ready with srcBase := 0xFFFFFFFF#32 } : State).Ready :=
  ⟨ready_inv, by decide, inv_of (by decide) (by decide), by decide⟩

theorem witness_BrightnessCommandsClampTheLevel : lit.Ready ∧ lit.brightness = 5 := by decide

theorem witness_DwellFallsWithBrightness : bench.WellFormed ∧ ({ bench with kDwell := 0, refreshTick := 1 } : Config).WellFormed := by decide

theorem witness_ReleaseStopsDrivingThePins : lit.Ready := by decide

/-! ### The scanner -/

/-- The last moment at which the dwell still ends below `2^64`. -/
theorem witness_RenderStartsADarkDwell :
    ({ ready with now := 2 ^ 64 - 6 } : State).Inv ∧ ({ ready with now := 2 ^ 64 - 6 } : State).Ready ∧
    2 ^ 64 - 6 + ((10 - ready.brightness) * ready.cfg.kDwell) / 10 < 2 ^ 64 := ⟨inv_of (by decide) (by decide), by decide⟩

theorem witness_DwellEndActivatesTheRow :
    ((withTurn 5 rendering).Inv ∧ (withTurn 5 rendering).inputs = .blockTurn :: [] ∧ (withTurn 5 rendering).phase = .dwell ∧
      (withTurn 5 rendering).tWaitEnd ≤ 5 ∧ (withTurn 5 rendering).op = .render) ∧
    ((withTurn 5 displaying).Inv ∧ (withTurn 5 displaying).phase = .dwell ∧ (withTurn 5 displaying).tWaitEnd ≤ 5 ∧
      displaying.op ≠ .render ∧ 5 + displaying.cfg.refreshTick < 2 ^ 64) :=
  ⟨⟨inv_of (by decide) (by decide), by decide⟩, inv_of (by decide) (by decide), by decide⟩

theorem witness_RenderShowsExactlyItsRow :
    ready.Inv ∧ ready.Ready ∧ ready.inputs = [] ∧ 5 = ((10 - ready.brightness) * ready.cfg.kDwell) / 10 ∧ ready.now + 5 < 2 ^ 64 :=
  ⟨ready_inv, by decide⟩

/-! ### The sequencer -/

theorem animNew_bench : animNew bench 0 .frames 0x100#32 2#32 .slide 10 = .ok (animStart 0 .frames 0x100#32 2#32 .slide 10 1) := by decide

theorem witness_ConstructionSucceedsExactlyWhenTimely : bench.WellFormed ∧
    animNew bench 0 .frames 0x100#32 2#32 .slide 10 = .ok (animStart 0 .frames 0x100#32 2#32 .slide 10 1) ∧
    animNew bench 0 .frames 0x100#32 2#32 .slide 9 = .tooFast ∧ animNew bench 0 .frames 0x100#32 0#32 .none 9 = .tooFast ∧
    animNew bench (2 ^ 64 - 10) .frames 0x100#32 2#32 .slide 10 = .overflow := by decide

theorem witness_SlideJuxtaposesTwoFrames : bench.WellFormed ∧ animateTick.an.sequence < bench.cols ∧ 4 < bench.cols ∧ 4 < bench.rows := by
  decide

theorem witness_AppliedFramesFollowTheClosedForm : bench.WellFormed ∧
    animNew bench 0 .frames 0x100#32 2#32 .slide 10 = .ok (animStart 0 .frames 0x100#32 2#32 .slide 10 1) ∧
    animNew bench 0 .frames 0x100#32 2#32 .none 2 = .ok (animStart 0 .frames 0x100#32 2#32 .none 2 1) := by decide

theorem witness_AnimationAppliesExactlyItsSteps : bench.WellFormed ∧
    animNew bench 0 .frames 0x100#32 2#32 .slide 10 = .ok (animStart 0 .frames 0x100#32 2#32 .slide 10 1) ∧
    (∀ t ∈ List.replicate 10 10, 0 + 10 ≤ t) ∧ stepsOf bench .slide (2#32).toNat ≤ (List.replicate 10 10).length := by decide

/-! ### Long operations -/

theorem witness_DisplayAppliesAndStartsRendering :
    ready.Inv ∧ ready.Ready ∧ 1000 = ready.durationHi.toNat * 2 ^ 32 + ready.durationLo.toNat ∧ ready.now + 1000 < 2 ^ 64 ∧
    ready.now + dwell ready.cfg ready.brightness < 2 ^ 64 := ⟨ready_inv, by decide⟩

theorem witness_TooFastChangesNothingElse :
    (({ ready with durationLo := 9#32 } : State).Ready ∧
      animateCall { ready with durationLo := 9#32 } (.animateFrames .slide) = some (.frames, .slide, 9) ∧
      9 < stepsOf ready.cfg .slide ready.srcLen.toNat) ∧
    (({ ready with srcLen := 0#32 } : State).Ready ∧ animateCall { ready with srcLen := 0#32 } .scroll = some (.bytes, .slide, 0) ∧
      ({ ready with srcLen := 0#32 } : State).srcLen.toNat = 0) := by decide

/-- Every animate command, the duration just long enough. -/
theorem witness_AnimateAppliesTheFirstFrame :
    ({ ready with durationLo := 10#32 } : State).Inv ∧ ({ ready with durationLo := 10#32 } : State).Ready ∧
    animateCall { ready with durationLo := 10#32 } (.animateFrames .slide) = some (.frames, .slide, 10) ∧
    animateCall { ready with durationLo := 10#32 } (.animate .none) = some (.bytes, .none, 10) ∧
    animateCall { ready with durationLo := 10#32 } .scrollSpeed = some (.bytes, .slide, 10) ∧
    animateCall { ready with durationLo := 10#32 } .scroll = some (.bytes, .slide, 1000) ∧
    ready.srcLen.toNat ≠ 0 ∧ stepsOf ready.cfg .slide ready.srcLen.toNat ≤ 10 ∧ stepsOf ready.cfg .none ready.srcLen.toNat ≤ 10 ∧
    ready.now + 1000 < 2 ^ 64 ∧ ready.now + dwell ready.cfg ready.brightness < 2 ^ 64 :=
  ⟨inv_of (by decide) (by decide), by decide⟩

/-- Each sum just at `2^64`. -/
theorem witness_TimeOverflowIsRefused :
    (({ ready with now := 2 ^ 64 - 5 } : State).Ready ∧ 2 ^ 64 ≤ 2 ^ 64 - 5 + dwell ready.cfg ready.brightness) ∧
    (({ ready with now := 2 ^ 64 - 1000 } : State).Ready ∧
      2 ^ 64 ≤ 2 ^ 64 - 1000 + (ready.durationHi.toNat * 2 ^ 32 + ready.durationLo.toNat)) ∧
    (animateCall { ready with now := 2 ^ 64 - 1000 } .scroll = some (.bytes, .slide, 1000) ∧
      stepsOf ready.cfg .slide ready.srcLen.toNat ≠ 0 ∧ stepsOf ready.cfg .slide ready.srcLen.toNat ≤ 1000 ∧
      2 ^ 64 ≤ 2 ^ 64 - 1000 + 1000) := by decide

theorem witness_DisplayTickEndsInOneOfThreeWays :
    ((withTurn 25 displayTick).Inv ∧ (withTurn 25 displayTick).inputs = .blockTurn :: [] ∧ (withTurn 25 displayTick).phase = .tick ∧
      (withTurn 25 displayTick).op = .display ∧ 25 + dwell displayTick.cfg displayTick.brightness < 2 ^ 64 ∧
      displayTick.abortReq = false ∧ displayTick.tWaitEnd ≤ 25 ∧ 25 < displayTick.dispDeadline) ∧
    ((withTurn 1000 displayTick).Inv ∧ displayTick.dispDeadline ≤ 1000) ∧
    ((withTurn 6 (issue 0x0000000F#32 displayTick)).Inv ∧ (issue 0x0000000F#32 displayTick).phase = .tick ∧
      (issue 0x0000000F#32 displayTick).op = .display ∧ (issue 0x0000000F#32 displayTick).abortReq = true) :=
  ⟨⟨inv_of (by decide) (by decide), by decide⟩, ⟨inv_of (by decide) (by decide), by decide⟩, inv_of (by decide) (by decide), by decide⟩

/-- The animation of program P3 after its last event. -/
def lastTick : State :=
  { animateTick with an := { animateTick.an with sequence := 0, frameIndex := 2, index := 10, next := 1000 } }

theorem witness_AnimationTickEndsInOneOfFourWays :
    ((withTurn 25 animateTick).Inv ∧ (withTurn 25 animateTick).inputs = .blockTurn :: [] ∧ (withTurn 25 animateTick).phase = .tick ∧
      (withTurn 25 animateTick).op = .animate ∧ 25 + dwell animateTick.cfg animateTick.brightness < 2 ^ 64 ∧
      animateTick.abortReq = false ∧ animateTick.tWaitEnd ≤ 25 ∧ 25 < animateTick.an.next) ∧
    ((withTurn 100 animateTick).Inv ∧ animateTick.an.next ≤ 100 ∧ animateTick.an.index < animateTick.an.length) ∧
    ((withTurn 1000 lastTick).Inv ∧ lastTick.phase = .tick ∧ lastTick.op = .animate ∧ lastTick.tWaitEnd ≤ 1000 ∧
      lastTick.an.next ≤ 1000 ∧ lastTick.an.index = lastTick.an.length) ∧
    ((withTurn 6 (issue 0x0000000F#32 animateTick)).Inv ∧ (issue 0x0000000F#32 animateTick).phase = .tick ∧
      (issue 0x0000000F#32 animateTick).op = .animate ∧ (issue 0x0000000F#32 animateTick).abortReq = true) :=
  ⟨⟨inv_of (by decide) (by decide), by decide⟩, ⟨inv_of (by decide) (by decide), by decide⟩,
   ⟨inv_of (by decide) (by decide), by decide⟩, inv_of (by decide) (by decide), by decide⟩

theorem witness_AbortIsLatched :
    (displaying.fault = false ∧ displaying.inert = false ∧ displaying.op = .display) ∧
    (animateTick.fault = false ∧ animateTick.inert = false ∧ animateTick.op = .animate) := by decide

theorem witness_LatchedAbortEndsTheOperation :
    ((issue 0x0000000F#32 displaying).Inv ∧ (issue 0x0000000F#32 displaying).phase = .dwell ∧
      (issue 0x0000000F#32 displaying).abortReq = true ∧ (issue 0x0000000F#32 displaying).inputs = [] ∧
      (issue 0x0000000F#32 displaying).now + displaying.cfg.refreshTick < 2 ^ 64 ∧
      (issue 0x0000000F#32 displaying).tWaitEnd + displaying.cfg.refreshTick < 2 ^ 64) ∧
    ((issue 0x0000000F#32 animateTick).Inv ∧ (issue 0x0000000F#32 animateTick).phase = .tick ∧
      (issue 0x0000000F#32 animateTick).abortReq = true ∧ (issue 0x0000000F#32 animateTick).inputs = []) :=
  ⟨⟨inv_of (by decide) (by decide), by decide⟩, inv_of (by decide) (by decide), by decide⟩

/-- V-LO-4 and V-LO-1: 76 ticks need four periods, 0 ticks one. -/
theorem witness_DisplayRunsForItsDuration :
    (({ ready with durationLo := 76#32 } : State).Inv ∧ ({ ready with durationLo := 76#32 } : State).Ready ∧ ready.inputs = [] ∧
      76 = ready.durationHi.toNat * 2 ^ 32 + (76#32).toNat ∧ 25 = dwell ready.cfg ready.brightness + ready.cfg.refreshTick ∧
      4 = max 1 ((76 + 25 - 1) / 25) ∧ ready.now + 4 * 25 < 2 ^ 64) ∧
    1 = max 1 ((0 + 25 - 1) / 25) := ⟨⟨inv_of (by decide) (by decide), by decide⟩, by decide⟩

/-- V-LO-7 and V-LO-6: late, and on time. -/
theorem witness_AnimationRunsToItsEnd :
    (({ ready with durationLo := 10#32 } : State).Inv ∧ ({ ready with durationLo := 10#32 } : State).Ready ∧ ready.inputs = [] ∧
      animateCall { ready with durationLo := 10#32 } (.animateFrames .slide) = some (.frames, .slide, 10) ∧ ready.srcLen.toNat ≠ 0 ∧
      stepsOf ready.cfg .slide ready.srcLen.toNat ≤ 10 ∧ ready.now + 10 < 2 ^ 64 ∧
      25 = dwell ready.cfg ready.brightness + ready.cfg.refreshTick ∧
      10 = max (stepsOf ready.cfg .slide ready.srcLen.toNat) ((stepsOf ready.cfg .slide ready.srcLen.toNat *
        (10 / stepsOf ready.cfg .slide ready.srcLen.toNat) + 25 - 1) / 25) ∧ ready.now + 10 * 25 < 2 ^ 64) ∧
    4 = max (stepsOf ready.cfg .none ready.srcLen.toNat) ((stepsOf ready.cfg .none ready.srcLen.toNat *
        (101 / stepsOf ready.cfg .none ready.srcLen.toNat) + 25 - 1) / 25) :=
  ⟨⟨inv_of (by decide) (by decide), by decide⟩, by decide⟩

/-! ### Registers, reset, pins, datapath -/

/-- An offset of each clause: the first and last listed ones, the last row and the first offset past it, the end of the window. -/
theorem witness_RegisterReadsReturnTheMap :
    ({ displaying with inputs := [.read 0x410] } : State).Inv ∧
    ({ displaying with inputs := [.read 0x410] } : State).inputs = .read 0x410 :: [] ∧ 0x410 % 4 = 0 ∧ 0x410 ≤ 0x7FC ∧
    4 < displaying.cfg.rows ∧ 0x410 = 0x400 + 4 * 4 ∧ 0x020 < 0x024 ∧ 0x024 < 0x400 ∧ 0x400 + 4 * displaying.cfg.rows ≤ 0x414 ∧
    0x7FC % 4 = 0 := ⟨inv_inputs displaying_inv _, by decide⟩

theorem witness_RegisterWritesFollowTheMap :
    ({ displayTick with inputs := [.write 0x004 8#32] } : State).inputs = .write 0x004 8#32 :: [] ∧ (8#32).getLsbD 3 = true ∧
    (7#32).getLsbD 3 = false ∧ 0x014 % 4 = 0 ∧ 0x018 ≤ 0x018 ∧ 0x018 % 4 = 0 ∧ 0x7FC % 4 = 0 := by decide

theorem witness_InexpressibleAccessesStop :
    ({ ready with inputs := [.write 0x7FD 0#32] } : State).inputs = .write 0x7FD 0#32 :: [] ∧ 0x7FC < 0x7FD ∧
    ({ ready with inputs := [.read 0x7FB] } : State).inputs = .read 0x7FB :: [] ∧ 0x7FB ≤ 0x7FC ∧ 0x7FB % 4 ≠ 0 ∧
    ({ ready with inputs := [.narrow 0 2] } : State).inputs = .narrow 0 2 :: [] := by decide

theorem witness_ResetInputRestoresTheResetState : ({ faulted with inputs := [.reset] } : State).inputs = .reset :: [] := by decide

theorem witness_PinLevelsFollowThePolarity :
    (lit.oe = true ∧ lit.rowOut[0]? = some true ∧ lit.rowOut[4]? = some false ∧ lit.colOut[2]? = some true) ∧ inert.oe = false := by decide

theorem witness_SetAndClearDecideIsSet : 1 ≤ (⟨0xA8#8, 5⟩ : Bitmap).nbits ∧ (⟨0xA8#8, 5⟩ : Bitmap).nbits ≤ 8 ∧
    4 < (⟨0xA8#8, 5⟩ : Bitmap).nbits ∧ (⟨0xA8#8, 5⟩ : Bitmap).nbits ≤ 5 := by decide

theorem witness_CombineIsCommutativeAndAssociative :
    (⟨0xA8#8, 5⟩ : Bitmap).nbits = (⟨0x50#8, 5⟩ : Bitmap).nbits ∧ (⟨0x50#8, 5⟩ : Bitmap).nbits = (⟨0x10#8, 5⟩ : Bitmap).nbits ∧
    (⟨0xA8#8, 5⟩ : Bitmap).nbits ≠ (⟨0x40#8, 4⟩ : Bitmap).nbits := by decide

theorem witness_ShiftThereAndBackClearsTheEdge :
    (⟨0xA8#8, 5⟩ : Bitmap).nbits ≤ 8 ∧ (⟨0xA8#8, 5⟩ : Bitmap).Canonical ∧ 4 < (⟨0xA8#8, 5⟩ : Bitmap).nbits := by decide

theorem witness_FramePrimitivesCheckYThenX : Frame.HasShape frameA 5 5 ∧ 5 ≤ 5 ∧ (4 < 5 ∧ 5 ≤ 5) := by decide

end Sys2Proof.Tests
end

section
/-! PROOFS. What no command and no step of the block writes: `SameSurroundings`, carried through the shared operations (rules R15, R23,
R40, R64), and from it the time (rule R12). -/

namespace Sys2Proof.Machine

/-- Stated for one state, it also serves `{ s with … }` of registers outside the surroundings, whose projections are those of `s`. In the
same way a lemma about an updated state is one about `s`; `(h :)` below reads it at the updated state before that comparison. -/
theorem SameSurroundings.refl (s : State) : SameSurroundings s s :=
  ⟨rfl, rfl, rfl, rfl, rfl, rfl, rfl, rfl, fun _ => rfl⟩

theorem SameSurroundings.now_eq {s t : State} (h : SameSurroundings s t) : t.now = s.now := by
  obtain ⟨-, -, -, -, -, hnow, -⟩ := h
  exact hnow

theorem renderBegin_surroundings {s t : State} (h : renderBegin s = .next t) : SameSurroundings s t := by
  obtain ⟨-, rfl⟩ := renderBegin_next.mp h
  exact .refl s

theorem dwellEnd_surroundings {s t : State} (h : dwellEnd s = .next t) : SameSurroundings s t := by
  obtain ⟨-, rfl⟩ | ⟨-, -, rfl⟩ := dwellEnd_next h
  · exact .refl s
  · exact .refl s

theorem animateIter_surroundings {s t : State} (h : animateIter s = .next t) : SameSurroundings s t := by
  obtain ⟨-, hr⟩ | ⟨-, -, hr⟩ | ⟨-, -, rfl⟩ := animateIter_next h
  · exact renderBegin_surroundings hr
  · exact (renderBegin_surroundings hr :)
  · exact .refl s

theorem startAnimate_surroundings {k : Kind} {e : Effect} {d : Nat} {s t : State} (h : startAnimate k e d s = .next t) :
    SameSurroundings s t := by
  obtain ⟨-, rfl⟩ | ⟨a, -, hi⟩ := startAnimate_next h
  · exact .refl s
  · exact (animateIter_surroundings hi :)

theorem tickEnd_surroundings {s t : State} (h : tickEnd s = .next t) : SameSurroundings s t := by
  obtain ⟨-, rfl⟩ | ⟨-, -, -, rfl⟩ | ⟨-, -, -, hr⟩ | ⟨-, -, hi⟩ := tickEnd_next h
  · exact .refl s
  · exact .refl s
  · exact renderBegin_surroundings hr
  · exact animateIter_surroundings hi

/-- The block's own steps write nothing of their surroundings (rules R15, R262, R263). -/
theorem blockStep_surroundings {s t : State} (h : blockStep s = .next t) : SameSurroundings s t := by
  obtain ⟨-, -, hd⟩ | ⟨-, -, ht⟩ | ⟨-, rfl⟩ := blockStep_next h
  · exact dwellEnd_surroundings hd
  · exact tickEnd_surroundings ht
  · exact .refl _

/-- An accepted command writes nothing of its surroundings: only the renders and animations do more than update named registers. -/
theorem Ran.surroundings {i : Instr} {s t : State} (h : Ran s i t) : SameSurroundings s t := by
  cases h with
  | render hr => exact (renderBegin_surroundings hr :)
  | display _ hr => exact (renderBegin_surroundings hr :)
  | animates _ ha => exact startAnimate_surroundings ha
  | _ => exact .refl s

theorem exec_surroundings {i : Instr} {s t : State} (h : exec i s = .next t) : SameSurroundings s t := by
  obtain ⟨c, -, rfl⟩ | ⟨-, hr⟩ := exec_next h
  · exact .refl s
  · exact hr.surroundings

theorem writeCmd_surroundings {w : Word} {s t : State} (h : writeCmd w s = .next t) : SameSurroundings s t := by
  obtain ⟨i, -, he⟩ | ⟨_, c, -, rfl⟩ := writeCmd_next h
  · exact exec_surroundings he
  · exact .refl s

theorem regWrite_now {off : Nat} {v : Word} {s t : State} (h : regWrite off v s = .next t) : t.now = s.now := by
  obtain ⟨-, hw⟩ | ⟨-, rfl⟩ | ⟨-, rfl⟩ | ⟨-, rfl⟩ | ⟨-, rfl⟩ | ⟨-, rfl⟩ | rfl := regWrite_next h
  · exact (writeCmd_surroundings hw).now_eq
  · exact writeStatus_now s v
  all_goals rfl

/-- The kinds of move that may change the time: the environment's own, and the free run a wait or an empty list stands for. -/
theorem Moved.now_cases {s t : State} (h : Moved s t) :
    t.now = s.now ∨ (s.now ≤ t.now ∧ (s.inputs = [] ∨ s.inputs.head? = some .waitIdle ∨
      (∃ n, s.inputs.head? = some (.advanceTo n)) ∨ s.inputs.head? = some (.setNow t.now))) := by
  cases h with
  | block l r _ hb => exact .inl (blockStep_surroundings hb).now_eq
  | time l r n head hle _ ht =>
    subst ht
    obtain h0 | h0 | h0 | h0 := head
    · exact .inr ⟨hle, .inl h0⟩
    · exact .inr ⟨hle, .inr (.inr (.inr h0))⟩
    · exact .inr ⟨hle, .inr (.inl h0)⟩
    · exact .inr ⟨hle, .inr (.inr (.inl h0))⟩
  | quiet l r _ ht => exact .inl (ht ▸ rfl)
  | source a v rest _ ht => exact .inl (ht ▸ rfl)
  | reset rest _ ht => exact .inl (ht ▸ rfl)
  | write off v rest _ _ _ hw => exact .inl (regWrite_now hw :)

/-- Settles O20: block steps and register writes keep the time, and the environment's moves never set it back. -/
theorem onlyTheEnvironmentAdvancesTime : Obligations.OnlyTheEnvironmentAdvancesTime := by
  intro s t h
  obtain hsame | ⟨hle, hmove⟩ := (step_next h).now_cases
  · exact ⟨hsame.ge, fun hne => absurd hsame hne⟩
  · exact ⟨hle, fun _ => hmove⟩

end Sys2Proof.Machine
end

section
/-! PROOFS. Every operation commutes with a change of the two pin polarities (rules R11, R34): the other parameters and every register
of `s.withPolarity row col` are those of `s` by computation, so an operation takes the same branch and reaches the same state but for the
polarities. -/

namespace Sys2Proof.Machine

/-- The outcome with a change made to its next state; faults and refusals as they are. -/
def mapNext (f : State → State) : StepResult → StepResult
  | .next t => .next (f t)
  | .fault e => .fault e
  | .refused e => .refused e

theorem mapNext_ite (f : State → State) (p : Prop) [Decidable p] (a b : StepResult) :
    mapNext f (if p then a else b) = if p then mapNext f a else mapNext f b := apply_ite (mapNext f) p a b

section
variable (row col : Bool) (s : State)

theorem gate_withPolarity (i : Instr) : (s.withPolarity row col).gate i = s.gate i := rfl

theorem animPoll_withPolarity :
    animPoll (s.withPolarity row col).cfg (s.withPolarity row col).src (s.withPolarity row col).now (s.withPolarity row col).an =
      animPoll s.cfg s.src s.now s.an := rfl

theorem animNew_withPolarity (k : Kind) (e : Effect) (d : Nat) :
    animNew (s.withPolarity row col).cfg (s.withPolarity row col).now k (s.withPolarity row col).srcBase
      (s.withPolarity row col).srcLen e d = animNew s.cfg s.now k s.srcBase s.srcLen e d := rfl

theorem renderBegin_withPolarity :
    renderBegin (s.withPolarity row col) = mapNext (·.withPolarity row col) (renderBegin s) := by
  simp only [renderBegin, mapNext_ite]; rfl

theorem dwellEnd_withPolarity :
    dwellEnd (s.withPolarity row col) = mapNext (·.withPolarity row col) (dwellEnd s) := by
  simp only [dwellEnd, mapNext_ite]; rfl

theorem animateIter_withPolarity :
    animateIter (s.withPolarity row col) = mapNext (·.withPolarity row col) (animateIter s) := by
  unfold animateIter
  rw [animPoll_withPolarity]
  rcases animPoll s.cfg s.src s.now s.an with ⟨_ | f | _, a⟩
  · exact renderBegin_withPolarity row col s
  · exact renderBegin_withPolarity row col { s.applyFrame f with an := a }
  · rfl

theorem startAnimate_withPolarity (k : Kind) (e : Effect) (d : Nat) :
    startAnimate k e d (s.withPolarity row col) = mapNext (·.withPolarity row col) (startAnimate k e d s) := by
  unfold startAnimate
  rw [animNew_withPolarity]
  cases animNew s.cfg s.now k s.srcBase s.srcLen e d with
  | ok a => exact animateIter_withPolarity row col { s with an := a, op := .animate, abortReq := false, result := .pending }
  | tooFast => rfl
  | overflow => rfl

theorem tickEnd_withPolarity :
    tickEnd (s.withPolarity row col) = mapNext (·.withPolarity row col) (tickEnd s) := by
  simp only [tickEnd, mapNext_ite, ← renderBegin_withPolarity, ← animateIter_withPolarity]; rfl

theorem blockStep_withPolarity :
    blockStep (s.withPolarity row col) = mapNext (·.withPolarity row col) (blockStep s) := by
  simp only [blockStep, mapNext_ite, ← dwellEnd_withPolarity, ← tickEnd_withPolarity]; rfl

theorem setTime_withPolarity (n : Nat) :
    setTime n (s.withPolarity row col) = mapNext (·.withPolarity row col) (setTime n s) := by
  simp only [setTime, mapNext_ite]; rfl

theorem freeRun_withPolarity :
    freeRun (s.withPolarity row col) = mapNext (·.withPolarity row col) (freeRun s) := by
  simp only [freeRun, mapNext_ite, ← blockStep_withPolarity, ← setTime_withPolarity]; rfl

theorem pixelResult_withPolarity (r : Except RangeFault Frame) :
    pixelResult r (s.withPolarity row col) = mapNext (·.withPolarity row col) (pixelResult r s) := by
  cases r with
  | ok f => rfl
  | error c => rfl

/-- Most commands update named registers, the same ones under every polarity; the others end in an operation treated above. -/
theorem commandBody_withPolarity (i : Instr) :
    commandBody i (s.withPolarity row col) = mapNext (·.withPolarity row col) (commandBody i s) := by
  cases i with
  | on x y => exact pixelResult_withPolarity row col s _
  | off x y => exact pixelResult_withPolarity row col s _
  | render => exact renderBegin_withPolarity row col { s with op := .render, result := .pending }
  | display => simp only [commandBody, mapNext_ite, ← renderBegin_withPolarity]; rfl
  | scroll => exact startAnimate_withPolarity row col s _ _ _
  | scrollSpeed => exact startAnimate_withPolarity row col s _ _ _
  | animate e => exact startAnimate_withPolarity row col s _ _ _
  | animateFrames e => exact startAnimate_withPolarity row col s _ _ _
  | _ => rfl

theorem exec_withPolarity (i : Instr) :
    exec i (s.withPolarity row col) = mapNext (·.withPolarity row col) (exec i s) := by
  cases hg : s.gate i with
  | some c => rw [exec_rejected hg, exec_rejected ((gate_withPolarity row col s i).trans hg)]; rfl
  | none =>
    rw [exec_accepted hg, exec_accepted ((gate_withPolarity row col s i).trans hg)]
    exact commandBody_withPolarity row col (s.acceptCmd i) i

theorem writeCmd_withPolarity (w : Word) :
    writeCmd w (s.withPolarity row col) = mapNext (·.withPolarity row col) (writeCmd w s) := by
  unfold writeCmd
  cases decodeWord w with
  | ok i => exact exec_withPolarity row col s i
  | error c => rfl

theorem writeStatus_withPolarity (v : Word) :
    (s.withPolarity row col).writeStatus v = (s.writeStatus v).withPolarity row col := by
  unfold State.writeStatus
  split <;> rfl

theorem regWrite_withPolarity (off : Nat) (v : Word) :
    regWrite off v (s.withPolarity row col) = mapNext (·.withPolarity row col) (regWrite off v s) := by
  simp only [regWrite, mapNext_ite, writeCmd_withPolarity, writeStatus_withPolarity]; rfl

theorem onPort_mapNext (f : State → State) (off : Nat) (access : StepResult) :
    onPort off (mapNext f access) = mapNext f (onPort off access) := by
  simp only [onPort, mapNext_ite]; rfl

theorem waitIdle_withPolarity :
    waitIdle (s.withPolarity row col) = mapNext (·.withPolarity row col) (waitIdle s) := by
  simp only [waitIdle, mapNext_ite, ← freeRun_withPolarity]; rfl

theorem advanceTo_withPolarity (n : Nat) :
    advanceTo n (s.withPolarity row col) = mapNext (·.withPolarity row col) (advanceTo n s) := by
  simp only [advanceTo, mapNext_ite, ← freeRun_withPolarity]; rfl

theorem runInput_withPolarity (i : Input) :
    runInput i (s.withPolarity row col) = mapNext (·.withPolarity row col) (runInput i s) := by
  cases i with
  | read off => exact onPort_mapNext (·.withPolarity row col) off (.next { s with readData := some (s.regRead off) })
  | write off v =>
    exact (congrArg (onPort off) (regWrite_withPolarity row col s off v)).trans (onPort_mapNext _ off _)
  | setNow n => exact setTime_withPolarity row col s n
  | blockTurn => exact blockStep_withPolarity row col s
  | waitIdle => exact waitIdle_withPolarity row col s
  | advanceTo n => exact advanceTo_withPolarity row col s n
  | narrow off bytes => rfl
  | srcWrite a v => rfl
  | reset => rfl

/-- The whole machine commutes with a change of the polarities. -/
theorem step_withPolarity : step (s.withPolarity row col) = mapNext (·.withPolarity row col) (step s) := by
  cases hin : s.inputs with
  | nil =>
    have hin' : (s.withPolarity row col).inputs = [] := hin
    rw [step_of_nil hin, step_of_nil hin', freeRun_withPolarity]
  | cons i rest =>
    have hin' : (s.withPolarity row col).inputs = i :: rest := hin
    rw [step_of_inputs hin, step_of_inputs hin']
    exact runInput_withPolarity row col { s with inputs := rest } i

end

/-- Settles O24: a step commutes with a change of the polarities, whichever outcome it has. -/
theorem polarityReachesThePinsOnly : Obligations.PolarityReachesThePinsOnly := by
  intro s row col
  refine ⟨fun t h => ?_, fun f h => ?_, fun r h => ?_⟩ <;> rw [step_withPolarity, h] <;> rfl

end Sys2Proof.Machine
end

section
/-! PROOFS. Rule R51: every step keeps the state invariant. One lemma per group of registers that an operation writes; an operation is a
few of them in a row. What a render starts from need not meet the invariant, as `op` is written before `phase`; the same state already in
its dwell, `State.inDwell`, does. -/

namespace Sys2Proof.Machine

/-- The state as the first half of a render will leave its rows and its phase (rule R221). -/
def State.inDwell (s : State) : State :=
  { s with rowOut := List.replicate s.cfg.rows false, phase := .dwell }

namespace State.Inv

variable {s t : State}

/-! Single groups of registers. -/

theorem rejectWith (h : s.Inv) (c : RejectCause) : (s.rejectWith c).Inv :=
  { h with reject_cause := by simp }

theorem acceptCmd (h : s.Inv) (i : Instr) : (s.acceptCmd i).Inv := { h with }

theorem withAgents (h : s.Inv) (l : List Input) (r : Option Word) : ({ s with inputs := l, readData := r } : State).Inv := { h with }

theorem withNow (h : s.Inv) {n : Nat} (hn : n < timeLimit) : ({ s with now := n } : State).Inv := { h with now_lt := hn }

theorem withBuffer (h : s.Inv) {f : Frame} (hs : Frame.HasShape f s.cfg.cols s.cfg.rows) (hc : Frame.Canonical f) :
    ({ s with fb := f } : State).Inv :=
  { h with fb_shape := hs, fb_canonical := hc }

theorem withDeadline (h : s.Inv) {d : Nat} (hd : d < timeLimit) : ({ s with dispDeadline := d } : State).Inv :=
  { h with dispDeadline_lt := hd }

theorem withBrightness (h : s.Inv) {b : Nat} (hb : b ≤ brMax) : ({ s with brightness := b } : State).Inv :=
  { h with brightness_le := hb }

theorem withoutAbort (h : s.Inv) : ({ s with abortReq := false } : State).Inv := { h with abort_long := nofun }

theorem withAnim (h : s.Inv) {a : Anim} (hf : a.Fits) (hr : s.op = .animate → a.Running s.cfg) : ({ s with an := a } : State).Inv :=
  { h with an_fits := hf, an_running := hr }

theorem withResult (h : s.Inv) (ho : s.op = .none) {r : Result} (hr : r ≠ .pending) : ({ s with result := r } : State).Inv :=
  { h with pending_iff := iff_of_false hr (not_not_intro ho) }

theorem withSource (h : s.Inv) (a : Word) (v : Byte) : ({ s with src := s.src.write a.toNat v } : State).Inv :=
  { h with src_wf := write_wf h.src_wf a v }

theorem writeStatus (h : s.Inv) (v : Word) : (s.writeStatus v).Inv := by
  unfold State.writeStatus
  split
  · exact { h with reject_cause := by simp }
  · exact h

theorem withDarkRows (h : s.Inv) : ({ s with rowOut := List.replicate s.cfg.rows false } : State).Inv :=
  { h with
    rowOut_length := List.length_replicate
    one_row := by simp [List.count_replicate]
    dwell_dark := fun _ => rfl }

theorem clearAll (h : s.Inv) : s.clearAll.Inv :=
  { h.withDarkRows with
    fb_shape := Frame.empty_shape _ _
    fb_canonical := Frame.empty_canonical _ _
    colOut_length := List.length_replicate }

theorem raiseFault (h : s.Inv) (hr : s.Ready) (c : RangeFault) : (s.raiseFault c).Inv :=
  { h with
    fault_idle := fun _ => hr.2.2
    not_both := by simp [hr.2.1]
    fault_cause := by simp }

theorem release (h : s.Inv) (hr : s.Ready) : ({ s with oe := false, inert := true } : State).Inv :=
  { h with
    inert_idle := fun _ => hr.2.2
    oe_iff := by simp
    not_both := by simp [hr.1] }

theorem latchAbort (h : s.Inv) (hop : s.op = .display ∨ s.op = .animate) : ({ s with abortReq := true } : State).Inv :=
  { h with abort_long := fun _ => hop }

theorem endOp (h : s.Inv) {r : Result} (hr : r ≠ .pending) : (s.endOp r).Inv :=
  { h with
    dwell_dark := nofun
    idle_iff := by simp
    render_dwell := nofun
    abort_long := nofun
    pending_iff := by simpa using hr
    fault_idle := fun _ => rfl
    inert_idle := fun _ => rfl
    an_running := nofun }

theorem finish (h : s.Inv) : s.finish.Inv := h.clearAll.endOp nofun

/-! Renders: `State.inDwell` meets the invariant before the first half of a render, the state itself after it. -/

/-- An operation in progress may render (rules R258, R263). -/
theorem inDwell (h : s.Inv) (hop : s.op ≠ .none) : s.inDwell.Inv :=
  { h.withDarkRows with
    dwell_dark := fun _ => rfl
    idle_iff := iff_of_false hop nofun
    render_dwell := fun _ => rfl }

/-- An operation that starts in READY may render (rules R220, R242, R254). -/
theorem start (h : s.Inv) (hr : s.Ready) (o : Op) (hop : o ≠ .none) (han : o = .animate → s.an.Running s.cfg) :
    ({ s with op := o, result := .pending } : State).inDwell.Inv :=
  { h.withDarkRows with
    dwell_dark := fun _ => rfl
    idle_iff := iff_of_false hop nofun
    render_dwell := fun _ => rfl
    abort_long := fun ha => by simpa [hr.2.2] using h.abort_long ha
    pending_iff := iff_of_true rfl hop
    fault_idle := fun hf => absurd (hr.1.symm.trans hf) nofun
    inert_idle := fun hi => absurd (hr.2.1.symm.trans hi) nofun
    an_running := han }

theorem renderBegin (h : s.inDwell.Inv) (hs : renderBegin s = .next t) : t.Inv := by
  obtain ⟨hlt, rfl⟩ := renderBegin_next.mp hs
  exact { h with
    colOut_length := by simp [State.renderColumns]
    tWaitEnd_lt := hlt }

/-- The second half of a render lights one row of a dark matrix and moves the scan pointer inside it (rules R36, R222). -/
theorem dwellEnd (h : s.Inv) (hp : s.phase = .dwell) (hs : dwellEnd s = .next t) : t.Inv := by
  have hrows : 0 < s.cfg.rows := Nat.zero_lt_of_lt h.rowP_lt
  have hrowP : (s.rowP + 1) % s.cfg.rows < s.cfg.rows := Nat.mod_lt _ hrows
  have hlen : (s.rowOut.set s.rowP true).length = s.cfg.rows := by simpa using h.rowOut_length
  have hone : (s.rowOut.set s.rowP true).count true ≤ 1 := by
    simp [h.dwell_dark hp, List.count_set, h.rowP_lt, List.count_replicate]
  obtain ⟨hop, rfl⟩ | ⟨hop, hlt, rfl⟩ := dwellEnd_next hs
  · exact { h.endOp (r := .ok) nofun with
      rowP_lt := hrowP
      rowOut_length := hlen
      one_row := hone
      dwell_dark := nofun
      abort_long := fun ha => by simpa [hop] using h.abort_long ha }
  · have hbusy : s.op ≠ .none := fun ho => by simp [h.idle_iff.mp ho] at hp
    exact { h with
      rowP_lt := hrowP
      rowOut_length := hlen
      one_row := hone
      dwell_dark := nofun
      idle_iff := iff_of_false hbusy nofun
      render_dwell := fun ho => absurd ho hop
      tWaitEnd_lt := hlt }

theorem animateIter (h : s.inDwell.Inv) (hop : s.op = .animate) (hs : animateIter s = .next t) : t.Inv := by
  have hrun : s.an.Running s.cfg := h.an_running hop
  have hwf : s.cfg.WellFormed := h.cfg_wf
  obtain ⟨-, hr⟩ | ⟨-, hi, hr⟩ | ⟨-, -, rfl⟩ := animateIter_next hs
  · exact h.renderBegin hr
  · have hb := h.withBuffer (animCurrent_shape s.cfg s.src s.an) (animCurrent_canonical _ _ _)
    have ha := hb.withAnim (Anim.Fits.advance h.an_fits hrun hi hwf.1 hwf.2.1) fun _ => hrun.advance hi hwf.1
    exact ha.renderBegin hr
  · exact h.finish

theorem startAnimate (h : s.Inv) (hr : s.Ready) {k : Kind} {e : Effect} {d : Nat} (hs : startAnimate k e d s = .next t) : t.Inv := by
  obtain ⟨-, rfl⟩ | ⟨a, ha, hi⟩ := startAnimate_next hs
  · exact h.withResult hr.2.2 nofun
  · obtain ⟨hrun, hfits⟩ := animNew_running ha h.cfg_wf.1 h.cfg_wf.2.1
    have hinv := h.withoutAbort.withAnim hfits fun _ => hrun
    exact (hinv.start hr .animate nofun fun _ => hrun).animateIter rfl hi

theorem tickEnd (h : s.Inv) (hp : s.phase = .tick) (hs : tickEnd s = .next t) : t.Inv := by
  have hbusy : s.op ≠ .none := fun ho => by simp [h.idle_iff.mp ho] at hp
  have hlong : s.op ≠ .render := fun ho => by simp [h.render_dwell ho] at hp
  obtain ⟨-, rfl⟩ | ⟨-, -, -, rfl⟩ | ⟨-, -, -, hr⟩ | ⟨-, hd, hi⟩ := tickEnd_next hs
  · exact h.endOp nofun
  · exact h.finish
  · exact (h.inDwell hbusy).renderBegin hr
  · have hop : s.op = .animate := by
      cases ho : s.op with
      | none => exact absurd ho hbusy
      | render => exact absurd ho hlong
      | display => exact absurd ho hd
      | animate => rfl
    exact (h.inDwell hbusy).animateIter hop hi

/-- The block's own steps keep the invariant (rules R262, R263). -/
theorem blockStep (h : s.Inv) (hs : blockStep s = .next t) : t.Inv := by
  obtain ⟨hp, -, hd⟩ | ⟨hp, -, ht⟩ | ⟨-, rfl⟩ := blockStep_next hs
  · exact h.dwellEnd hp hd
  · exact h.tickEnd hp ht
  · exact h

end State.Inv

theorem Animates.ne_abort {s : State} {i : Instr} {k : Kind} {e : Effect} {d : Nat} (h : Animates s i k e d) : i ≠ .abort := by
  cases h <;> nofun

namespace State.Inv

variable {s t : State}

/-- Every accepted command keeps the invariant. -/
theorem ran {i : Instr} (h : s.Inv) (hg : s.gate i = none) (hs : Ran s i t) : t.Inv := by
  have hready (hi : i ≠ .abort) : s.Ready := (gate_eq_none_iff hi).mp hg
  have hidle (hi : i ≠ .abort) : s.op = .none := (hready hi).2.2
  have hcols : s.cfg.cols ≤ 8 := h.cfg_wf.2.1
  have hframe : (s.applyFrame (frameAt s.cfg s.src s.srcBase 0)).Inv :=
    h.withBuffer (frameAt_shape _ _ _ _) (frameAt_canonical _ _ _ _)
  cases hs with
  | clear => exact h.clearAll.withResult (hidle nofun) nofun
  | on hf =>
    obtain ⟨hshape, hcanon⟩ := Frame.setPixel_ok_spec h.fb_shape hcols hf
    exact (h.withBuffer hshape (hcanon h.fb_canonical)).withResult (hidle nofun) nofun
  | off hf =>
    obtain ⟨hshape, hcanon⟩ := Frame.clearPixel_ok_spec h.fb_shape hcols hf
    exact (h.withBuffer hshape (hcanon h.fb_canonical)).withResult (hidle nofun) nofun
  | onFault => exact h.raiseFault (hready nofun) _
  | offFault => exact h.raiseFault (hready nofun) _
  | apply => exact hframe.withResult (hidle nofun) nofun
  | setBrightness v => exact (h.withBrightness (Nat.min_le_right _ _)).withResult (hidle nofun) nofun
  | incBrightness v => exact (h.withBrightness (Nat.min_le_right _ _)).withResult (hidle nofun) nofun
  | decBrightness v =>
    exact (h.withBrightness ((Nat.sub_le _ _).trans h.brightness_le)).withResult (hidle nofun) nofun
  | render hr => exact (h.start (hready nofun) .render nofun nofun).renderBegin hr
  | display hl hr => exact ((hframe.withoutAbort.withDeadline hl).start (hready nofun) .display nofun nofun).renderBegin hr
  | animates hi ha => exact h.startAnimate (hready hi.ne_abort) ha
  | release => exact (h.release (hready nofun)).withResult (hidle nofun) nofun
  | abort => exact h.latchAbort (gate_abort_eq_none_iff.mp hg).2.2

theorem writeCmd {w : Word} (h : s.Inv) (hs : writeCmd w s = .next t) : t.Inv := by
  obtain ⟨i, -, he⟩ | ⟨_, c, -, rfl⟩ := writeCmd_next hs
  · obtain ⟨c, -, rfl⟩ | ⟨hg, hr⟩ := exec_next he
    · exact h.rejectWith c
    · exact (h.acceptCmd i).ran hg hr
  · exact h.rejectWith c

theorem regWrite {off : Nat} {v : Word} (h : s.Inv) (hs : regWrite off v s = .next t) : t.Inv := by
  obtain ⟨-, hw⟩ | ⟨-, rfl⟩ | ⟨-, rfl⟩ | ⟨-, rfl⟩ | ⟨-, rfl⟩ | ⟨-, rfl⟩ | rfl := regWrite_next hs
  · exact h.writeCmd hw
  · exact h.writeStatus v
  all_goals exact { h with }

end State.Inv

theorem Anim.reset_fits : Anim.reset.Fits := by constructor <;> decide

/-- The reset state, and the reason why reset keeps the invariant (rules R50, R322). -/
theorem resetOf_inv {c : Config} (hc : c.WellFormed) : (State.resetOf c).Inv where
  cfg_wf := hc
  fb_shape := Frame.empty_shape c.cols c.rows
  fb_canonical := Frame.empty_canonical c.cols c.rows
  rowP_lt := hc.2.2.1
  brightness_le := (by decide : brDefault ≤ brMax)
  rowOut_length := List.length_replicate
  colOut_length := List.length_replicate
  one_row := by simp [State.resetOf, List.count_replicate]
  dwell_dark := nofun
  idle_iff := iff_of_true rfl rfl
  render_dwell := nofun
  abort_long := nofun
  pending_iff := iff_of_false nofun nofun
  fault_idle := nofun
  inert_idle := nofun
  oe_iff := iff_of_false nofun nofun
  not_both := nofun
  fault_cause := iff_of_false nofun nofun
  reject_cause := iff_of_false nofun nofun
  an_fits := Anim.reset_fits
  an_running := nofun
  now_lt := (by decide : 0 < timeLimit)
  tWaitEnd_lt := (by decide : 0 < timeLimit)
  dispDeadline_lt := (by decide : 0 < timeLimit)
  src_wf := rfl

theorem State.Inv.resetBlock {s : State} (h : s.Inv) : s.resetBlock.Inv :=
  { resetOf_inv h.cfg_wf with
    now_lt := h.now_lt
    src_wf := h.src_wf }

theorem State.Inv.moved {s t : State} (h : s.Inv) (hs : Moved s t) : t.Inv := by
  cases hs with
  | block l r _ hb => exact (h.withAgents l r).blockStep hb
  | time l r n _ _ hlt ht => exact ht ▸ (h.withAgents l r).withNow hlt
  | quiet l r _ ht => exact ht ▸ h.withAgents l r
  | source a v rest _ ht => exact ht ▸ (h.withAgents rest s.readData).withSource a v
  | reset rest _ ht => exact ht ▸ (h.withAgents rest s.readData).resetBlock
  | write off v rest _ _ _ hw => exact (h.withAgents rest s.readData).regWrite hw

/-- Settles O9: each agent's move keeps the invariant. -/
theorem stepKeepsInvariant : Obligations.StepKeepsInvariant :=
  fun _ _ h hs => h.moved (step_next hs)

/-- Settles O10. -/
theorem resetMeetsInvariant : Obligations.ResetMeetsInvariant :=
  fun _ hc => ⟨resetOf_inv hc, rfl, rfl, rfl⟩

end Sys2Proof.Machine
end

section
/-! PROOFS. Registers, reset and pins (rules R34, R41 to R50): what the port answers, what the STATUS word holds, what a pin shows. -/

namespace Sys2Proof.Machine

/-! The STATUS word (rule R43). -/

/-- The number of a word whose last field is `w` bits wide. -/
theorem toNat_append_eq {v w : Nat} (x : BitVec v) (y : BitVec w) : (x ++ y).toNat = x.toNat * 2 ^ w + y.toNat := by
  rw [BitVec.toNat_append, Nat.shiftLeft_eq, Nat.mul_comm, Nat.two_pow_add_eq_or_of_lt y.isLt]

theorem statusWord_toNat (s : State) :
    s.statusWord.toNat = s.busy.toNat + 2 * s.fault.toNat + 4 * s.inert.toNat + 8 * s.reject.toNat + 16 * s.result.code.toNat +
      256 * (faultCode s.faultCause).toNat + 4096 * (rejectCode s.rejectCause).toNat := by
  simp only [State.statusWord, toNat_append_eq, BitVec.toNat_ofBool, BitVec.toNat_ofNat]
  omega

/-- Settles O51: the fields of the word, and then the code of each field. -/
theorem statusWordHoldsItsFields : Obligations.StatusWordHoldsItsFields := by
  intro s
  have hbusy : s.busy.toNat = if s.op = .none then 0 else 1 := by by_cases h : s.op = .none <;> simp [State.busy, h]
  have hbool (b : Bool) (k : Nat) : k * b.toNat = if b then k else 0 := by cases b <;> simp
  rw [statusWord_toNat, hbusy, hbool, hbool, hbool]
  refine congrArg₂ (· + ·) (congrArg₂ (· + ·) (congrArg₂ (· + ·) rfl (congrArg (16 * ·) ?result)) (congrArg (256 * ·) ?fault))
    (congrArg (4096 * ·) ?reject)
  case result => cases s.result <;> rfl
  case fault => rcases s.faultCause with _ | _ | _ <;> rfl
  case reject => rcases s.rejectCause with _ | _ | _ | _ | _ | _ | _ <;> rfl

/-! Reads and writes (rules R41 to R49, R71). -/

theorem onPort_of_aligned {off : Nat} (hmod : off % 4 = 0) (hoff : off ≤ 0x7FC) (r : StepResult) : onPort off r = r := by
  simp [onPort, hmod, Nat.not_lt.mpr hoff]

theorem step_read {s : State} {off : Nat} {rest : List Input} (hin : s.inputs = .read off :: rest) (hmod : off % 4 = 0)
    (hoff : off ≤ 0x7FC) : step s = .next { s with inputs := rest, readData := some (s.regRead off) } := by
  rw [step_of_inputs hin]
  exact onPort_of_aligned hmod hoff _

theorem step_write {s : State} {off : Nat} {v : Word} {rest : List Input} (hin : s.inputs = .write off v :: rest) (hmod : off % 4 = 0)
    (hoff : off ≤ 0x7FC) : step s = regWrite off v { s with inputs := rest } := by
  rw [step_of_inputs hin]
  exact onPort_of_aligned hmod hoff _

/-- Rule R49: FBROW[y] is the storage byte of buffer row `y`. -/
theorem regRead_fbRow {s : State} {y : Nat} (hy : y < s.cfg.rows) :
    s.regRead (0x400 + 4 * y) = (s.fb.getD y (Bitmap.empty s.cfg.cols)).data.setWidth 32 := by
  unfold State.regRead fbRowOffset
  iterate 9 rw [if_neg (by omega)]
  rw [if_pos (by omega), show (0x400 + 4 * y - 0x400) / 4 = y by omega]

/-- Rules R41, R71: an offset above CONFIG that is no buffer row reads 0. -/
theorem regRead_unlisted {s : State} {off : Nat} (hlo : 0x020 < off) (hoff : off < 0x400 ∨ 0x400 + 4 * s.cfg.rows ≤ off) :
    s.regRead off = 0#32 := by
  unfold State.regRead fbRowOffset
  iterate 9 rw [if_neg (by omega)]
  rw [if_neg (by omega)]

/-- A canonical row shows its storage byte, and nothing right of its field (rules R121, R122). -/
theorem frame_getLsbD_eq_pixel {f : Frame} {w h : Nat} (hs : Frame.HasShape f w h) (hc : Frame.Canonical f) {x y : Nat} (hx : x < 8)
    (hy : y < f.length) (d : Bitmap) : (f.getD y d).data.getLsbD (7 - x) = Frame.pixel f x y := by
  rw [List.getD_eq_getElem _ _ hy]
  by_cases hxw : x < w
  · rw [Frame.pixel_of_lt hs hxw hy, pixel_eq _ _ hx]
  · rw [Frame.pixel_of_ge hs (.inl (Nat.le_of_not_lt hxw))]
    exact (canonical_iff _).mp (hc _ (List.getElem_mem hy)) _ (by rw [hs.nbits_getElem y hy]; omega)

/-- Settles O52. -/
theorem registerReadsReturnTheMap : Obligations.RegisterReadsReturnTheMap := by
  intro s off rest h hin hmod hoff
  obtain ⟨-, hcols, -, hrows, -⟩ := h.cfg_wf
  have hbr : s.brightness ≤ 10 := h.brightness_le
  have hrowP := h.rowP_lt
  refine ⟨s.regRead off, step_read hin hmod hoff, ?_, ?_, ?_, ?_, ?_, ?_, ?_, ?_, ?_, fun y hy heq => ?_, regRead_unlisted⟩
  case refine_1 | refine_2 | refine_3 | refine_4 | refine_5 | refine_6 => rintro rfl; rfl
  case refine_7 => rintro rfl; exact Nat.mod_eq_of_lt (by omega)
  case refine_8 => rintro rfl; exact Nat.mod_eq_of_lt (by omega)
  case refine_9 => rintro rfl; exact Nat.mod_eq_of_lt (by omega)
  case refine_10 =>
    subst heq
    have hlen : y < s.fb.length := h.fb_shape.1.symm ▸ hy
    rw [regRead_fbRow hy]
    refine ⟨?_, fun x hx => ?_⟩
    · rw [BitVec.toNat_setWidth]
      exact (Nat.mod_le _ _).trans_lt (BitVec.isLt _)
    · refine Eq.trans ?_ (frame_getLsbD_eq_pixel h.fb_shape h.fb_canonical hx hlen (Bitmap.empty s.cfg.cols))
      rw [BitVec.getLsbD_setWidth, decide_eq_true (by omega), Bool.true_and]

/-- Settles O53. -/
theorem registerWritesFollowTheMap : Obligations.RegisterWritesFollowTheMap := by
  intro s off v rest hin hmod hoff
  rw [step_write hin hmod hoff]
  refine ⟨?_, ?_, ?_, ?_, ?_, ?_, fun hro => ?_⟩
  · rintro rfl hv; exact congrArg Host.Outcome.next (if_pos hv)
  · rintro rfl hv; exact congrArg Host.Outcome.next (if_neg (Bool.eq_false_iff.mp hv))
  case refine_3 | refine_4 | refine_5 | refine_6 => rintro rfl; rfl
  · unfold regWrite
    iterate 6 rw [if_neg (by omega)]

/-! Reset and pins (rules R34, R50). -/

/-- Settles O55: the state after reset is `State.resetBlock`, whose registers are those of the reset table. -/
theorem resetInputRestoresTheResetState : Obligations.ResetInputRestoresTheResetState := by
  intro s rest hin
  have hdark (x y : Nat) : (State.resetOf s.cfg).pixel x y = false ∧ (State.resetOf s.cfg).lit x y = false := by
    refine ⟨Frame.empty_pixel _ _ _ _, ?_⟩
    simp [State.lit, State.resetOf]
  have hstatus : (State.resetOf s.cfg).statusWord = 0#32 := BitVec.eq_of_toNat_eq (statusWord_toNat _)
  refine ⟨({ s with inputs := rest } : State).resetBlock, step_of_inputs hin, ⟨rfl, rfl, rfl⟩, rfl, hdark, ?_⟩
  refine ⟨rfl, rfl, rfl, rfl, rfl, rfl, rfl, rfl, rfl, rfl, hstatus, ?_⟩
  exact ⟨rfl, rfl, rfl, rfl, rfl, rfl, rfl, rfl, rfl, rfl, rfl⟩

theorem pinLevel_eq (activeHigh active : Bool) : pinLevel activeHigh active = decide (active = activeHigh) := by
  cases activeHigh <;> cases active <;> rfl

/-- Settles O56. -/
theorem pinLevelsFollowThePolarity : Obligations.PinLevelsFollowThePolarity := by
  intro s n active
  refine ⟨fun hoe hn => ?_, fun hoe hn => ?_, fun hoe => ?_⟩
  · simp [State.rowPin, hoe, hn, pinLevel_eq]
  · simp [State.colPin, hoe, hn, pinLevel_eq]
  · simp [State.rowPin, State.colPin, hoe]

end Sys2Proof.Machine
end

section
/-! PROOFS. What is lit (rules R35, R36, R221, R222), and who writes the brightness and the scan pointer (rules R25, R27). -/

namespace Sys2Proof.Machine

/-- Settles O8. -/
theorem commandsLeaveTheirSurroundings : Obligations.CommandsLeaveTheirSurroundings :=
  fun _ _ _ => exec_surroundings

/-! Lit LEDs. -/

theorem lit_iff {s : State} {x y : Nat} :
    s.lit x y = true ↔ s.oe = true ∧ s.rowOut[y]? = some true ∧ s.colOut[x]? = some true := by
  have hget (l : List Bool) (i : Nat) : l.getD i false = true ↔ l[i]? = some true := by
    rw [List.getD_eq_getElem?_getD]
    cases l[i]? <;> simp
  simp only [State.lit, Bool.and_eq_true, hget, and_assoc]

/-- An entry that occurs at most once stands at one place. -/
theorem index_unique {l : List Bool} (h : l.count true ≤ 1) {i j : Nat} (hi : l[i]? = some true) (hj : l[j]? = some true) : i = j := by
  have hlt {a b : Nat} (ha : l[a]? = some true) (hb : l[b]? = some true) : ¬a < b := by
    intro hab
    obtain ⟨ha, hta⟩ := List.getElem?_eq_some_iff.mp ha
    obtain ⟨hb, htb⟩ := List.getElem?_eq_some_iff.mp hb
    have hdup : l.Duplicate true :=
      List.duplicate_iff_exists_distinct_get.mpr ⟨⟨a, ha⟩, ⟨b, hb⟩, hab, hta.symm, htb.symm⟩
    have := List.duplicate_iff_two_le_count.mp hdup
    omega
  exact Nat.le_antisymm (Nat.le_of_not_lt (hlt hj hi)) (Nat.le_of_not_lt (hlt hi hj))

/-- Settles O13: at most one row output is active. -/
theorem atMostOneRowIsLit : Obligations.AtMostOneRowIsLit := by
  intro s h x y x' y' hxy hxy'
  obtain ⟨-, hy, -⟩ := lit_iff.mp hxy
  obtain ⟨-, hy', -⟩ := lit_iff.mp hxy'
  exact index_unique h.one_row hy hy'

/-- Rules R38, R221: a busy block with an active row is in a tick wait, for it spends its dwells dark. -/
theorem tick_of_active_row {s : State} (h : s.Inv) (hb : s.Busy) {y : Nat} (hy : s.rowOut[y]? = some true) : s.phase = .tick := by
  cases hp : s.phase with
  | idle => exact absurd (h.idle_iff.mpr hp) hb
  | dwell => simp [h.dwell_dark hp, List.getElem?_replicate] at hy
  | tick => rfl

/-- Settles O12: in a tick wait the scan picture says which row is active and what its columns show. -/
theorem busyBlockLightsOnlyBufferPixels : Obligations.BusyBlockLightsOnlyBufferPixels := by
  intro s h hpic hb x y hlit
  obtain ⟨-, hy, hx⟩ := lit_iff.mp hlit
  have hp : s.phase = .tick := tick_of_active_row h hb hy
  obtain ⟨hxlen, -⟩ := List.getElem?_eq_some_iff.mp hx
  have hrow : y = s.lastRow := by
    have := hpic.tick_row hp y
    simpa [hy, List.getD_eq_getElem?_getD] using this
  have hcol := hpic.tick_columns hp x (h.colOut_length ▸ hxlen)
  rw [hx, Option.some_inj] at hcol
  exact ⟨hrow, hrow ▸ hcol.symm, hp⟩

/-! The scan pointer and the brightness. -/

/-- The scan pointer and the brightness are as before. -/
def KeepsScan (s t : State) : Prop := t.rowP = s.rowP ∧ t.brightness = s.brightness

theorem renderBegin_keepsScan {s t : State} (h : renderBegin s = .next t) : KeepsScan s t := by
  obtain ⟨-, rfl⟩ := renderBegin_next.mp h
  exact ⟨rfl, rfl⟩

theorem animateIter_keepsScan {s t : State} (h : animateIter s = .next t) : KeepsScan s t := by
  obtain ⟨-, hr⟩ | ⟨-, -, hr⟩ | ⟨-, -, rfl⟩ := animateIter_next h
  · exact renderBegin_keepsScan hr
  · exact (renderBegin_keepsScan hr :)
  · exact ⟨rfl, rfl⟩

theorem startAnimate_keepsScan {k : Kind} {e : Effect} {d : Nat} {s t : State} (h : startAnimate k e d s = .next t) :
    KeepsScan s t := by
  obtain ⟨-, rfl⟩ | ⟨a, -, hi⟩ := startAnimate_next h
  · exact ⟨rfl, rfl⟩
  · exact (animateIter_keepsScan hi :)

theorem tickEnd_keepsScan {s t : State} (h : tickEnd s = .next t) : KeepsScan s t := by
  obtain ⟨-, rfl⟩ | ⟨-, -, -, rfl⟩ | ⟨-, -, -, hr⟩ | ⟨-, -, hi⟩ := tickEnd_next h
  · exact ⟨rfl, rfl⟩
  · exact ⟨rfl, rfl⟩
  · exact renderBegin_keepsScan hr
  · exact animateIter_keepsScan hi

theorem succ_mod_eq_ite {p n : Nat} (h : p < n) : (p + 1) % n = if p + 1 = n then 0 else p + 1 := by
  split
  · next heq => rw [heq, Nat.mod_self]
  · exact Nat.mod_eq_of_lt (by omega)

/-- Rule R222: the end of a render moves the scan pointer to the next row, cyclically, and no brightness. -/
theorem dwellEnd_scan {s t : State} (h : dwellEnd s = .next t) :
    t.rowP = (s.rowP + 1) % s.cfg.rows ∧ t.brightness = s.brightness := by
  obtain ⟨-, rfl⟩ | ⟨-, -, rfl⟩ := dwellEnd_next h <;> exact ⟨rfl, rfl⟩

/-- A block step keeps both, or ends a render. -/
theorem blockStep_scan {s t : State} (h : blockStep s = .next t) :
    KeepsScan s t ∨
      (s.phase = .dwell ∧ s.tWaitEnd ≤ s.now ∧ t.rowP = (s.rowP + 1) % s.cfg.rows ∧ t.brightness = s.brightness) := by
  obtain ⟨hp, hw, hd⟩ | ⟨-, -, ht⟩ | ⟨-, rfl⟩ := blockStep_next h
  · exact .inr ⟨hp, hw, dwellEnd_scan hd⟩
  · exact .inl (tickEnd_keepsScan ht)
  · exact .inl ⟨rfl, rfl⟩

/-- The three commands of rules R168 to R170. -/
def IsBrightness (i : Instr) : Prop := ∃ v, i = .setBrightness v ∨ i = .incBrightness v ∨ i = .decBrightness v

theorem Ran.scan {i : Instr} {s t : State} (h : Ran s i t) : t.rowP = s.rowP ∧ (IsBrightness i ∨ t.brightness = s.brightness) := by
  cases h with
  | render hr => exact (renderBegin_keepsScan hr).imp_right .inr
  | display _ hr => exact (renderBegin_keepsScan hr).imp_right .inr
  | animates _ ha => exact (startAnimate_keepsScan ha).imp_right .inr
  | setBrightness v => exact ⟨rfl, .inl ⟨v, .inl rfl⟩⟩
  | incBrightness v => exact ⟨rfl, .inl ⟨v, .inr (.inl rfl)⟩⟩
  | decBrightness v => exact ⟨rfl, .inl ⟨v, .inr (.inr rfl)⟩⟩
  | _ => exact ⟨rfl, .inr rfl⟩

theorem writeCmd_scan {w : Word} {s t : State} (h : writeCmd w s = .next t) :
    t.rowP = s.rowP ∧ ((∃ i, decodeWord w = .ok i ∧ IsBrightness i) ∨ t.brightness = s.brightness) := by
  obtain ⟨i, hi, he⟩ | ⟨_, c, -, rfl⟩ := writeCmd_next h
  · obtain ⟨c, -, rfl⟩ | ⟨-, hr⟩ := exec_next he
    · exact ⟨rfl, .inr rfl⟩
    · exact hr.scan.imp_right (.imp_left fun hb => ⟨i, hi, hb⟩)
  · exact ⟨rfl, .inr rfl⟩

theorem regWrite_scan {off : Nat} {v : Word} {s t : State} (h : regWrite off v s = .next t) :
    t.rowP = s.rowP ∧ ((off = 0 ∧ ∃ i, decodeWord v = .ok i ∧ IsBrightness i) ∨ t.brightness = s.brightness) := by
  obtain ⟨hoff, hw⟩ | ⟨-, rfl⟩ | ⟨-, rfl⟩ | ⟨-, rfl⟩ | ⟨-, rfl⟩ | ⟨-, rfl⟩ | rfl := regWrite_next h
  · exact (writeCmd_scan hw).imp_right (.imp_left fun hb => ⟨hoff, hb⟩)
  · exact ⟨writeStatus_rowP s v, .inr (writeStatus_brightness s v)⟩
  all_goals exact ⟨rfl, .inr rfl⟩

/-- Settles O21. -/
theorem onlyBrightnessCommandsWriteBrightness : Obligations.OnlyBrightnessCommandsWriteBrightness := by
  intro s t hs hne
  cases step_next hs with
  | block l r _ hb =>
    obtain ⟨-, hbr⟩ | ⟨-, -, -, hbr⟩ := blockStep_scan hb
    · exact absurd hbr hne
    · exact absurd hbr hne
  | time l r n _ _ _ ht => exact absurd (ht ▸ rfl) hne
  | quiet l r _ ht => exact absurd (ht ▸ rfl) hne
  | source a v rest _ ht => exact absurd (ht ▸ rfl) hne
  | reset rest hin ht => exact .inr ⟨by rw [hin]; rfl, ht ▸ rfl⟩
  | write off v rest hin _ _ hw =>
    obtain ⟨rfl, i, hi, val, hval⟩ | hbr := (regWrite_scan hw).2
    · refine .inl ⟨v, val, by rw [hin]; rfl, ?_⟩
      obtain rfl | rfl | rfl := hval
      · exact .inl hi
      · exact .inr (.inl hi)
      · exact .inr (.inr hi)
    · exact absurd hbr hne

/-- Settles O22. -/
theorem onlyRenderEndAdvancesTheScanPointer : Obligations.OnlyRenderEndAdvancesTheScanPointer := by
  intro s t h hs hne
  cases step_next hs with
  | block l r _ hb =>
    obtain ⟨hrow, -⟩ | ⟨hp, hw, hrow, -⟩ := blockStep_scan hb
    · exact absurd hrow hne
    · exact .inl ⟨hp, hw, hrow.trans (succ_mod_eq_ite h.rowP_lt)⟩
  | time l r n _ _ _ ht => exact absurd (ht ▸ rfl) hne
  | quiet l r _ ht => exact absurd (ht ▸ rfl) hne
  | source a v rest _ ht => exact absurd (ht ▸ rfl) hne
  | reset rest hin ht => exact .inr ⟨by rw [hin]; rfl, ht ▸ rfl⟩
  | write off v rest _ _ _ hw => exact absurd (regWrite_scan hw).1 hne

end Sys2Proof.Machine
end

section
/-! PROOFS. Nothing reads the output registers (rules R32, R289): with `row_out` and `col_out` covered up, an operation has the same
outcome whatever they held before. -/

namespace Sys2Proof.Machine

/-- The outcome with the output registers of its next state covered up. -/
def hidePins : StepResult → StepResult := mapNext (·.withPins [] [])

theorem hidePins_ite (p : Prop) [Decidable p] (a b : StepResult) :
    hidePins (if p then a else b) = if p then hidePins a else hidePins b := apply_ite hidePins p a b

/-- States that agree with their outputs covered up differ in the outputs alone. -/
theorem eq_withPins_of_hidden {s t : State} (h : s.withPins [] [] = t.withPins [] []) : s = t.withPins s.rowOut s.colOut :=
  congrArg (·.withPins s.rowOut s.colOut) h

section
variable (rows cols : List Bool) (s : State)

theorem renderBegin_withPins : hidePins (renderBegin (s.withPins rows cols)) = hidePins (renderBegin s) := by
  simp only [renderBegin, hidePins_ite]; rfl

theorem dwellEnd_withPins : hidePins (dwellEnd (s.withPins rows cols)) = hidePins (dwellEnd s) := by
  simp only [dwellEnd, hidePins_ite]; rfl

theorem animPoll_withPins :
    animPoll (s.withPins rows cols).cfg (s.withPins rows cols).src (s.withPins rows cols).now (s.withPins rows cols).an =
      animPoll s.cfg s.src s.now s.an := rfl

theorem animNew_withPins (k : Kind) (e : Effect) (d : Nat) :
    animNew (s.withPins rows cols).cfg (s.withPins rows cols).now k (s.withPins rows cols).srcBase (s.withPins rows cols).srcLen e d =
      animNew s.cfg s.now k s.srcBase s.srcLen e d := rfl

theorem animateIter_withPins : hidePins (animateIter (s.withPins rows cols)) = hidePins (animateIter s) := by
  rw [animateIter, animateIter, animPoll_withPins]
  rcases animPoll s.cfg s.src s.now s.an with ⟨_ | f | _, a⟩
  · exact renderBegin_withPins rows cols s
  · exact renderBegin_withPins rows cols { s.applyFrame f with an := a }
  · rfl

theorem startAnimate_withPins (k : Kind) (e : Effect) (d : Nat) :
    hidePins (startAnimate k e d (s.withPins rows cols)) = hidePins (startAnimate k e d s) := by
  rw [startAnimate, startAnimate, animNew_withPins]
  cases animNew s.cfg s.now k s.srcBase s.srcLen e d with
  | ok a => exact animateIter_withPins rows cols { s with an := a, op := .animate, abortReq := false, result := .pending }
  | tooFast => rfl
  | overflow => rfl

theorem tickEnd_withPins : hidePins (tickEnd (s.withPins rows cols)) = hidePins (tickEnd s) := by
  simp only [tickEnd, hidePins_ite, renderBegin_withPins, animateIter_withPins]; rfl

theorem blockStep_withPins : hidePins (blockStep (s.withPins rows cols)) = hidePins (blockStep s) := by
  simp only [blockStep, hidePins_ite, dwellEnd_withPins, tickEnd_withPins]; rfl

theorem setTime_withPins (n : Nat) : hidePins (setTime n (s.withPins rows cols)) = hidePins (setTime n s) := by
  simp only [setTime, hidePins_ite]; rfl

theorem freeRun_withPins : hidePins (freeRun (s.withPins rows cols)) = hidePins (freeRun s) := by
  simp only [freeRun, hidePins_ite, blockStep_withPins, setTime_withPins]; rfl

theorem pixelResult_withPins (r : Except RangeFault Frame) :
    hidePins (pixelResult r (s.withPins rows cols)) = hidePins (pixelResult r s) := by
  cases r with
  | ok f => rfl
  | error c => rfl

/-- Most commands update named registers; the others end in an operation treated above. -/
theorem commandBody_withPins (i : Instr) : hidePins (commandBody i (s.withPins rows cols)) = hidePins (commandBody i s) := by
  cases i with
  | on x y => exact pixelResult_withPins rows cols s _
  | off x y => exact pixelResult_withPins rows cols s _
  | render => exact renderBegin_withPins rows cols { s with op := .render, result := .pending }
  | display => simp only [commandBody, hidePins_ite]; rfl
  | scroll => exact startAnimate_withPins rows cols s _ _ _
  | scrollSpeed => exact startAnimate_withPins rows cols s _ _ _
  | animate e => exact startAnimate_withPins rows cols s _ _ _
  | animateFrames e => exact startAnimate_withPins rows cols s _ _ _
  | _ => rfl

theorem exec_withPins (i : Instr) : hidePins (exec i (s.withPins rows cols)) = hidePins (exec i s) := by
  have hgate : (s.withPins rows cols).gate i = s.gate i := rfl
  cases hg : s.gate i with
  | some c => rw [exec_rejected hg, exec_rejected (hgate.trans hg)]; rfl
  | none =>
    rw [exec_accepted hg, exec_accepted (hgate.trans hg)]
    exact commandBody_withPins rows cols (s.acceptCmd i) i

theorem writeCmd_withPins (w : Word) : hidePins (writeCmd w (s.withPins rows cols)) = hidePins (writeCmd w s) := by
  unfold writeCmd
  cases decodeWord w with
  | ok i => exact exec_withPins rows cols s i
  | error c => rfl

theorem writeStatus_withPins (v : Word) : (s.withPins rows cols).writeStatus v = (s.writeStatus v).withPins rows cols := by
  unfold State.writeStatus
  split <;> rfl

theorem regWrite_withPins (off : Nat) (v : Word) :
    hidePins (regWrite off v (s.withPins rows cols)) = hidePins (regWrite off v s) := by
  simp only [regWrite, hidePins_ite, writeCmd_withPins, writeStatus_withPins]; rfl

theorem hidePins_onPort (off : Nat) {r r' : StepResult} (h : hidePins r = hidePins r') :
    hidePins (onPort off r) = hidePins (onPort off r') := by
  simp only [onPort, hidePins_ite, h]

theorem waitIdle_withPins : hidePins (waitIdle (s.withPins rows cols)) = hidePins (waitIdle s) := by
  have hrun := freeRun_withPins rows cols { s with readData := some s.statusWord, inputs := .waitIdle :: s.inputs }
  simp only [waitIdle, hidePins_ite, ← hrun]; rfl

theorem advanceTo_withPins (n : Nat) : hidePins (advanceTo n (s.withPins rows cols)) = hidePins (advanceTo n s) := by
  have hrun := freeRun_withPins rows cols { s with inputs := .advanceTo n :: s.inputs }
  simp only [advanceTo, hidePins_ite, ← hrun]; rfl

theorem runInput_withPins (i : Input) : hidePins (runInput i (s.withPins rows cols)) = hidePins (runInput i s) := by
  cases i with
  | read off => exact hidePins_onPort off rfl
  | write off v => exact hidePins_onPort off (regWrite_withPins rows cols s off v)
  | setNow n => exact setTime_withPins rows cols s n
  | blockTurn => exact blockStep_withPins rows cols s
  | waitIdle => exact waitIdle_withPins rows cols s
  | advanceTo n => exact advanceTo_withPins rows cols s n
  | narrow off bytes => rfl
  | srcWrite a v => rfl
  | reset => rfl

/-- No step of the machine looks at the output registers. -/
theorem step_withPins : hidePins (step (s.withPins rows cols)) = hidePins (step s) := by
  cases hin : s.inputs with
  | nil =>
    have hin' : (s.withPins rows cols).inputs = [] := hin
    rw [step_of_nil hin, step_of_nil hin', freeRun_withPins]
  | cons i rest =>
    have hin' : (s.withPins rows cols).inputs = i :: rest := hin
    rw [step_of_inputs hin, step_of_inputs hin']
    exact runInput_withPins rows cols { s with inputs := rest } i

end

/-! An outcome is known from its covered form, up to the outputs of a next state. -/

theorem hidePins_eq_next {r : StepResult} {t : State} (h : hidePins r = hidePins (.next t)) :
    ∃ rows cols, r = .next (t.withPins rows cols) := by
  cases r with
  | next t' => exact ⟨t'.rowOut, t'.colOut, congrArg _ (eq_withPins_of_hidden (Host.Outcome.next.inj h))⟩
  | fault f => cases h
  | refused e => cases h

theorem hidePins_eq_fault {r : StepResult} {f : Fault} (h : hidePins r = .fault f) : r = .fault f := by
  cases r with
  | next t => cases h
  | fault f' => exact h
  | refused e => cases h

theorem hidePins_eq_refused {r : StepResult} {e : Refusal} (h : hidePins r = .refused e) : r = .refused e := by
  cases r with
  | next t => cases h
  | fault f => cases h
  | refused e' => exact h

/-- Settles O25. -/
theorem nothingDependsOnTheOutputs : Obligations.NothingDependsOnTheOutputs := by
  intro s rows cols
  have hstep := step_withPins rows cols s
  refine ⟨fun t ht => ?_, fun f hf => ?_, fun e he => ?_⟩
  · rw [ht] at hstep; exact hidePins_eq_next hstep
  · rw [hf] at hstep; exact hidePins_eq_fault hstep
  · rw [he] at hstep; exact hidePins_eq_refused hstep

end Sys2Proof.Machine
end

section
/-! PROOFS. The host's accesses (rules R17, R61, R64, R71, R76): who changes source memory, what a register write leaves of a busy block,
and which accesses stop. -/

namespace Sys2Proof.Machine

/-! Source memory (rules R17, R64). -/

theorem SameSurroundings.src_read {s t : State} (h : SameSurroundings s t) (b : Nat) : t.src.read b = s.src.read b := by
  obtain ⟨-, -, -, -, -, -, -, -, hsrc⟩ := h
  exact hsrc b

theorem regWrite_src_read {off : Nat} {v : Word} {s t : State} (h : regWrite off v s = .next t) (b : Nat) :
    t.src.read b = s.src.read b := by
  obtain ⟨-, hw⟩ | ⟨-, rfl⟩ | ⟨-, rfl⟩ | ⟨-, rfl⟩ | ⟨-, rfl⟩ | ⟨-, rfl⟩ | rfl := regWrite_next h
  · exact (writeCmd_surroundings hw).src_read b
  · rw [writeStatus_src]
  all_goals rfl

theorem step_srcWrite {s : State} {a : Word} {v : Byte} (h : s.inputs.head? = some (.srcWrite a v)) :
    step s = .next { s with inputs := s.inputs.tail, src := s.src.write a.toNat v } :=
  step_of_inputs (List.eq_cons_of_mem_head? h)

/-- Of the agents' moves the host's own write alone touches source memory. -/
theorem Moved.src_read {s t : State} (h : Moved s t) (hne : ∀ a v, s.inputs.head? ≠ some (.srcWrite a v)) (b : Nat) :
    t.src.read b = s.src.read b := by
  cases h with
  | block l r _ hb => exact (blockStep_surroundings hb).src_read b
  | time l r n _ _ _ ht => exact ht ▸ rfl
  | quiet l r _ ht => exact ht ▸ rfl
  | source a v rest hin _ => exact absurd (by rw [hin]; rfl) (hne a v)
  | reset rest _ ht => exact ht ▸ rfl
  | write off v rest _ _ _ hw => exact (regWrite_src_read hw b :)

/-- Settles O19: a read after the host's write gives the last write, and no other move touches the memory. -/
theorem onlyTheHostWritesSourceMemory : Obligations.OnlyTheHostWritesSourceMemory := by
  intro s t h hs
  refine ⟨fun a v hin b => ?_, (step_next hs).src_read⟩
  rw [step_srcWrite hin] at hs
  cases hs
  exact read_write_wf h.src_wf a.toNat v b

/-! A busy block (rule R76 (d)). -/

/-- Every register of the display and of the operation in progress is as before; ABORT's latch is not one of them. -/
def Undisturbed (s t : State) : Prop :=
  t.fb = s.fb ∧ t.brightness = s.brightness ∧ t.rowP = s.rowP ∧ t.rowOut = s.rowOut ∧ t.colOut = s.colOut ∧ t.op = s.op ∧
    t.phase = s.phase ∧ t.tWaitEnd = s.tWaitEnd ∧ t.dispDeadline = s.dispDeadline ∧ t.an = s.an ∧ t.result = s.result

/-- As `SameSurroundings.refl`, it also serves `{ s with … }` of other registers. -/
theorem Undisturbed.refl (s : State) : Undisturbed s s := ⟨rfl, rfl, rfl, rfl, rfl, rfl, rfl, rfl, rfl, rfl, rfl⟩

theorem writeStatus_undisturbed (s : State) (v : Word) : Undisturbed s (s.writeStatus v) := by
  unfold State.writeStatus
  split <;> exact .refl s

/-- ABORT is the one command a busy block can accept, and it only latches its request (rules R96, R256). -/
theorem exec_undisturbed {s : State} (hb : s.Busy) (i : Instr) : ∃ t, exec i s = .next t ∧ Undisturbed s t := by
  cases hg : s.gate i with
  | some c => exact ⟨s.rejectWith c, exec_rejected hg, .refl s⟩
  | none =>
    obtain rfl : i = .abort := by
      by_contra hi
      obtain ⟨-, -, hidle⟩ := (gate_eq_none_iff hi).mp hg
      exact hb hidle
    exact ⟨{ s.acceptCmd .abort with abortReq := true }, exec_accepted hg, .refl s⟩

theorem writeCmd_undisturbed {s : State} (hb : s.Busy) (w : Word) : ∃ t, writeCmd w s = .next t ∧ Undisturbed s t := by
  unfold writeCmd
  split
  · exact exec_undisturbed hb _
  · exact ⟨_, rfl, .refl s⟩

/-- A write of any register but CMD updates an operand or the rejection record, or nothing (rules R41 to R49). -/
theorem regWrite_undisturbed {s : State} (hb : s.Busy) (off : Nat) (v : Word) :
    ∃ t, regWrite off v s = .next t ∧ Undisturbed s t := by
  unfold regWrite
  split
  · exact writeCmd_undisturbed hb v
  split
  · exact ⟨_, rfl, writeStatus_undisturbed s v⟩
  repeat' split
  all_goals exact ⟨_, rfl, .refl s⟩

/-- Settles O23. -/
theorem hostCannotDisturbABusyBlock : Obligations.HostCannotDisturbABusyBlock := by
  intro s off v rest _ hb hin hmod hoff
  rw [step_write hin hmod hoff]
  exact regWrite_undisturbed (s := { s with inputs := rest }) hb off v

/-! Accesses the port cannot express (rules R61, R71). -/

theorem onPort_outside {off : Nat} (h : 0x7FC < off) (r : StepResult) : onPort off r = .fault .offsetOutsideReg := if_pos h

theorem onPort_unaligned {off : Nat} (hoff : off ≤ 0x7FC) (hmod : off % 4 ≠ 0) (r : StepResult) :
    onPort off r = .refused .unalignedAccess := by
  rw [onPort, if_neg (Nat.not_lt.mpr hoff), if_pos hmod]

/-- Reads and writes pass the same port. -/
theorem step_onPort {s : State} {off : Nat} {v : Word} {rest : List Input}
    (hin : s.inputs = .write off v :: rest ∨ s.inputs = .read off :: rest) : ∃ r, step s = onPort off r := by
  obtain hin | hin := hin
  · exact ⟨_, step_of_inputs hin⟩
  · exact ⟨_, step_of_inputs hin⟩

/-- Settles O54: the port stops a whole-word access, and a narrow one has no meaning at all. -/
theorem inexpressibleAccessesStop : Obligations.InexpressibleAccessesStop := by
  intro s off bytes v rest
  refine ⟨fun hin => ?_, step_of_inputs⟩
  obtain ⟨r, hr⟩ := step_onPort hin
  rw [hr]
  exact ⟨fun h => onPort_outside h r, fun hoff hmod => onPort_unaligned hoff hmod r⟩

end Sys2Proof.Machine
end

section
/-! PROOFS. Decoding and encoding (rules R90 to R95): a word decodes to a command exactly when its fields are those of the command and no
bit above the command's format is set; a row of the opcode map selects by `w & mask = match`. -/

namespace Sys2Proof

/-! A decoded word, field by field (rules R91, R93, R94). -/

theorem Instr.wellFormed_iff (i : Instr) : i.WellFormed ↔ i.operandA < 256 ∧ i.operandB < 256 := by
  cases i
  case animate e => cases e <;> decide
  case animateFrames e => cases e <;> decide
  all_goals simp [Instr.WellFormed, Instr.wellFormed, Instr.operandA, Instr.operandB]

theorem encodeFields : ∀ i : Instr, Laws.EncodeFields.Statement i
  | .clear => Laws.EncodeFields.clear
  | .on x y => Laws.EncodeFields.on x y
  | .off x y => Laws.EncodeFields.off x y
  | .apply => Laws.EncodeFields.apply
  | .setBrightness v => Laws.EncodeFields.setBrightness v
  | .incBrightness v => Laws.EncodeFields.incBrightness v
  | .decBrightness v => Laws.EncodeFields.decBrightness v
  | .render => Laws.EncodeFields.render
  | .display => Laws.EncodeFields.display
  | .scroll => Laws.EncodeFields.scroll
  | .scrollSpeed => Laws.EncodeFields.scrollSpeed
  | .animate e => Laws.EncodeFields.animate e
  | .animateFrames e => Laws.EncodeFields.animateFrames e
  | .release => Laws.EncodeFields.release
  | .abort => Laws.EncodeFields.abort

theorem effectField_of_code {w : Word} {e : Effect} (h : aField w = e.code) : effectField w = e := by
  rw [aField_eq] at h
  rw [effectField_eq]
  cases e <;> simp only [Effect.code] at h
  · rw [if_neg (by omega)]
  · rw [if_pos (by omega)]

/-- The row of the opcode map is the command's own once the word's fields are. -/
theorem opcodeMap_of_fields {w : Word} {i : Instr} (ho : opcField w = i.opcode) (ha : aField w = i.operandA)
    (hb : bField w = i.operandB) : opcodeMap w = some (i.format, i) := by
  unfold opcodeMap
  rw [ho]
  cases i
  case animate e => rw [effectField_of_code ha]; rfl
  case animateFrames e => rw [effectField_of_code ha]; rfl
  all_goals rw [ha, hb]; rfl

theorem aField_of_lt {w : Word} (h : w.toNat < 2 ^ 8) : aField w = 0 := by rw [aField_eq]; omega

theorem bField_of_lt {w : Word} (h : w.toNat < 2 ^ 16) : bField w = 0 := by rw [bField_eq]; omega

theorem code_effectField {w : Word} (h : w.toNat < 2 ^ 9) : (effectField w).code = aField w := by
  rw [effectField_eq, aField_eq]
  split <;> simp only [Effect.code] <;> omega

/-- Rule R92: the row's command reads the fields its format uses, and line 4 of rule R96 makes the others zero. -/
theorem fields_of_opcodeMap {w : Word} {f : Format} {i : Instr} (h : opcodeMap w = some (f, i)) (hw : w.toNat < 2 ^ f.width) :
    f = i.format ∧ opcField w = i.opcode ∧ aField w = i.operandA ∧ bField w = i.operandB := by
  unfold opcodeMap at h
  split at h <;> cases h <;> refine ⟨rfl, ‹_›, ?_⟩
  case h_2 | h_3 => exact ⟨rfl, rfl⟩
  case h_5 | h_6 | h_7 => exact ⟨rfl, bField_of_lt hw⟩
  case h_12 | h_13 => exact ⟨(code_effectField hw).symm, bField_of_lt (lt_trans hw (by decide))⟩
  all_goals exact ⟨aField_of_lt hw, bField_of_lt (lt_trans hw (by decide))⟩

/-- The decoder inverted: a word decodes to a command exactly when it holds the command's opcode and operands and stays in its format. -/
theorem decodeWord_eq_ok_iff {w : Word} {i : Instr} :
    decodeWord w = .ok i ↔
      opcField w = i.opcode ∧ aField w = i.operandA ∧ bField w = i.operandB ∧ w.toNat < 2 ^ i.format.width := by
  constructor
  · intro h
    obtain ⟨f, hmap, hw⟩ := decodeWord_ok h
    obtain ⟨rfl, hopc, ha, hb⟩ := fields_of_opcodeMap hmap hw
    exact ⟨hopc, ha, hb, hw⟩
  · rintro ⟨hopc, ha, hb, hw⟩
    exact decodeWord_of_map (opcodeMap_of_fields hopc ha hb) hw

/-- Settles O1: the encoded word has the command's fields. -/
theorem decodeOfEncodeIsIdentity : Obligations.DecodeOfEncodeIsIdentity := by
  intro i hi
  obtain ⟨hopc, ha, hb, hz⟩ := encodeFields i hi
  exact decodeWord_eq_ok_iff.mpr ⟨hopc, ha, hb, (reserved_zero_iff _ _).mp hz⟩

/-- No format uses the field Z (rule R91). -/
theorem Format.width_le (f : Format) : f.width ≤ 24 := by cases f <;> decide

/-- Settles O2: a word below `2^24` is put together from its three fields, which the command of a decoded word holds. -/
theorem encodeOfDecodeIsIdentity : Obligations.EncodeOfDecodeIsIdentity := by
  intro w i h
  obtain ⟨hopc, ha, hb, hw⟩ := decodeWord_eq_ok_iff.mp h
  have hw24 : w.toNat < 2 ^ 24 := lt_of_lt_of_le hw (Nat.pow_le_pow_right (by decide) i.format.width_le)
  rw [opcField_eq] at hopc
  rw [aField_eq] at ha
  rw [bField_eq] at hb
  refine ⟨i.wellFormed_iff.mpr (by omega), BitVec.eq_of_toNat_eq ?_⟩
  rw [encode_toNat]
  omega

/-! The opcode map as a table (rules R92, R94). -/

/-- The mask of a format's rows: every bit but the operand bits it uses. -/
def Format.mask (f : Format) : Word := ~~~f.fieldMask ||| 0xFF#32

theorem opcField_ofNat {n : Nat} (hn : n < 256) : opcField (BitVec.ofNat 32 n) = n := by
  rw [opcField_eq, BitVec.toNat_ofNat]
  omega

theorem opcField_and_mask (f : Format) (w : Word) : opcField (w &&& f.mask) = opcField w := by
  have hmask : f.mask.extractLsb' 0 8 = BitVec.allOnes 8 := by cases f <;> decide
  rw [opcField, BitVec.extractLsb'_and, hmask, BitVec.and_allOnes, opcField]

theorem and_low_eq_opcField (w : Word) : w &&& 0xFF#32 = BitVec.ofNat 32 (opcField w) := by
  apply BitVec.eq_of_toNat_eq
  rw [BitVec.toNat_and, opcField_eq, BitVec.toNat_ofNat, BitVec.toNat_ofNat]
  rw [show (255 : Nat) % 2 ^ 32 = 2 ^ 8 - 1 from rfl, Nat.and_two_pow_sub_one_eq_mod]
  omega

/-- Rule R92's mask and line 4 of rule R96 say the same of a word: the masked bits are the opcode and the reserved ones. -/
theorem and_mask_eq_iff (f : Format) (w : Word) {n : Nat} (hn : n < 256) :
    w &&& f.mask = BitVec.ofNat 32 n ↔ opcField w = n ∧ w &&& ~~~f.fieldMask = 0#32 := by
  constructor
  · intro h
    have hreserved : (w &&& f.mask) &&& ~~~f.fieldMask = w &&& ~~~f.fieldMask := by
      rw [BitVec.and_assoc, show f.mask &&& ~~~f.fieldMask = ~~~f.fieldMask by cases f <;> decide]
    rw [← opcField_and_mask f, ← hreserved, h]
    refine ⟨opcField_ofNat hn, (reserved_zero_iff f _).mpr ?_⟩
    have hwidth : 2 ^ 8 ≤ 2 ^ f.width := by cases f <;> decide
    rw [BitVec.toNat_ofNat]
    omega
  · rintro ⟨rfl, hz⟩
    rw [Format.mask, BitVec.and_or_distrib_left, hz, BitVec.zero_or, and_low_eq_opcField]

/-- The format of a row depends on the opcode alone. -/
theorem opcodeMap_format_congr {v w : Word} (h : opcField v = opcField w) :
    (opcodeMap v).map Prod.fst = (opcodeMap w).map Prod.fst := by
  unfold opcodeMap
  rw [h]
  generalize opcField w = n
  split <;> rfl

/-- The rows of the table are the decoder's: the opcode fits its field, `match` is the opcode, and `mask` is that of the format the decoder
reads the row's command in. -/
theorem opcodeTable_rows : ∀ row ∈ opcodeTable, row.opc < 256 ∧ row.pattern = BitVec.ofNat 32 row.opc ∧
    ((opcodeMap row.pattern).map Prod.fst).map Format.mask = some row.mask := by decide

theorem exists_row_iff {n : Nat} : (∃ row ∈ opcodeTable, n = row.opc) ↔ 1 ≤ n ∧ n < 16 := by
  have hopcs : opcodeTable.map OpcodeRow.opc = List.range' 1 15 := by decide
  have hrange : n ∈ List.range' 1 15 ↔ 1 ≤ n ∧ n < 16 := List.mem_range'_1
  rw [← hrange, ← hopcs, List.mem_map]
  exact exists_congr fun _ => and_congr_right fun _ => eq_comm

/-- Rule R97: an opcode without a row is illegal. -/
theorem decodeWord_of_no_row {w : Word} (h : ¬∃ row ∈ opcodeTable, opcField w = row.opc) : decodeWord w = .error .illegalOpcode := by
  have hrange : ¬(1 ≤ opcField w ∧ opcField w < 16) := mt exists_row_iff.mpr h
  have hnone : opcodeMap w = none := by
    unfold opcodeMap
    split
    case h_16 => rfl
    all_goals omega
  rw [decodeWord, hnone]

/-- Each row of the table is a row of the decoder: its opcode selects one format, and `mask` tests the opcode and that format's reserved
bits. -/
theorem format_of_row {row : OpcodeRow} (hrow : row ∈ opcodeTable) :
    ∃ f : Format, (∀ w, opcField w = row.opc → ∃ i, opcodeMap w = some (f, i)) ∧
      ∀ w, w &&& row.mask = row.pattern ↔ opcField w = row.opc ∧ w &&& ~~~f.fieldMask = 0#32 := by
  obtain ⟨hlt, hpattern, hmask⟩ := opcodeTable_rows row hrow
  obtain ⟨f, hformat, hf⟩ := Option.map_eq_some_iff.mp hmask
  refine ⟨f, fun w hopc => ?_, fun w => ?_⟩
  · have hsame : opcField w = opcField row.pattern := by rw [hopc, hpattern, opcField_ofNat hlt]
    rw [← opcodeMap_format_congr hsame] at hformat
    obtain ⟨⟨_, i⟩, hmap, rfl⟩ := Option.map_eq_some_iff.mp hformat
    exact ⟨i, hmap⟩
  · rw [← hf, hpattern]
    exact and_mask_eq_iff f w hlt

/-- Rule R92: a word that matches a row decodes to a command of that row. -/
theorem decodeWord_of_match {w : Word} {row : OpcodeRow} (hrow : row ∈ opcodeTable) (hmatch : w &&& row.mask = row.pattern) :
    ∃ i, decodeWord w = .ok i ∧ i.opcode = row.opc := by
  obtain ⟨f, hmap, hiff⟩ := format_of_row hrow
  obtain ⟨hopc, hz⟩ := (hiff w).mp hmatch
  obtain ⟨i, hi⟩ := hmap w hopc
  have hok : decodeWord w = .ok i := decodeWord_of_map hi ((reserved_zero_iff f w).mp hz)
  exact ⟨i, hok, (decodeWord_eq_ok_iff.mp hok).1.symm.trans hopc⟩

/-- Rule R97: a word with a row's opcode that does not match the row has a reserved bit set. -/
theorem decodeWord_of_mismatch {w : Word} {row : OpcodeRow} (hrow : row ∈ opcodeTable) (hopc : opcField w = row.opc)
    (hmatch : w &&& row.mask ≠ row.pattern) : decodeWord w = .error .reservedNonzero := by
  obtain ⟨f, hmap, hiff⟩ := format_of_row hrow
  obtain ⟨i, hi⟩ := hmap w hopc
  rw [decodeWord, hi]
  exact if_pos fun hz => hmatch ((hiff w).mpr ⟨hopc, hz⟩)

/-- Settles O3: a decoded word of the row's opcode that did not match would have been rejected. -/
theorem decodeSelectsByMaskAndMatch : Obligations.DecodeSelectsByMaskAndMatch := by
  intro w row hrow
  refine ⟨?_, decodeWord_of_match hrow⟩
  rintro ⟨i, hok, hi⟩
  obtain ⟨hopc, -⟩ := decodeWord_eq_ok_iff.mp hok
  by_contra hmatch
  rw [decodeWord_of_mismatch hrow (hopc.trans hi) hmatch] at hok
  cases hok

/-- Settles O4: closed words, decoded. -/
theorem decodeReadsTheSpecWords : Obligations.DecodeReadsTheSpecWords := by
  unfold Obligations.DecodeReadsTheSpecWords
  decide

end Sys2Proof
end

section
/-! PROOFS. A write of CMD (rules R96, R97, R287): what each line of the acceptance procedure answers, and the record an accepted command
leaves. -/

namespace Sys2Proof.Machine

/-! The step of a CMD write. -/

theorem step_writeCmd {s : State} {w : Word} {rest : List Input} (hin : s.inputs = .write 0x000 w :: rest) :
    step s = writeCmd w { s with inputs := rest } :=
  step_write hin (by decide) (by decide)

theorem writeCmd_of_ok {w : Word} {i : Instr} (h : decodeWord w = .ok i) (s : State) : writeCmd w s = exec i s := by
  rw [writeCmd, h]

/-- Settles O6: the port hands an aligned write of CMD to the decoder. -/
theorem stepRunsTheDecodedCommand : Obligations.StepRunsTheDecodedCommand := by
  intro s w rest i hin hok
  rw [step_writeCmd hin, writeCmd_of_ok hok]

/-! Lines 1 to 4 of rule R96. -/

theorem writeCmd_inert {s : State} (w : Word) (hi : s.inert = true) : writeCmd w s = .next (s.rejectWith .inert) := by
  unfold writeCmd
  split
  · exact exec_rejected (by simp [State.gate, hi])
  · simp [hi]

theorem writeCmd_faulted {s : State} (w : Word) (hi : s.inert = false) (hf : s.fault = true) :
    writeCmd w s = .next (s.rejectWith .faulted) := by
  unfold writeCmd
  split
  · exact exec_rejected (by simp [State.gate, hi, hf])
  · simp [hi, hf]

theorem writeCmd_of_error {s : State} {w : Word} {c : RejectCause} (hi : s.inert = false) (hf : s.fault = false)
    (h : decodeWord w = .error c) : writeCmd w s = .next (s.rejectWith c) := by
  simp [writeCmd, h, hi, hf]

/-- Settles O5: in READY the decoder's own cause is the one recorded. -/
theorem illegalAndReservedWordsAreRejected : Obligations.IllegalAndReservedWordsAreRejected := by
  intro s w rest hready hin
  obtain ⟨hf, hi, -⟩ := hready
  rw [step_writeCmd hin]
  refine ⟨fun hopc => ?_, fun row hrow hopc hmatch => ?_⟩
  · have hnorow : ¬∃ row ∈ opcodeTable, opcField w = row.opc := by rw [exists_row_iff]; omega
    exact writeCmd_of_error hi hf (decodeWord_of_no_row hnorow)
  · exact writeCmd_of_error hi hf (decodeWord_of_mismatch hrow hopc hmatch)

/-! What an accepted command leaves of CMD_LAST and of the rejection record (rules R24, R96). -/

/-- CMD_LAST and the rejection record are as before. -/
def SameRecord (s t : State) : Prop := t.cmdLast = s.cmdLast ∧ t.reject = s.reject ∧ t.rejectCause = s.rejectCause

/-- As `SameSurroundings.refl`, it also serves `{ s with … }` of other registers. -/
theorem SameRecord.refl (s : State) : SameRecord s s := ⟨rfl, rfl, rfl⟩

theorem renderBegin_record {s t : State} (h : renderBegin s = .next t) : SameRecord s t := by
  obtain ⟨-, rfl⟩ := renderBegin_next.mp h
  exact .refl s

theorem animateIter_record {s t : State} (h : animateIter s = .next t) : SameRecord s t := by
  obtain ⟨-, hr⟩ | ⟨-, -, hr⟩ | ⟨-, -, rfl⟩ := animateIter_next h
  · exact renderBegin_record hr
  · exact (renderBegin_record hr :)
  · exact .refl s

theorem startAnimate_record {k : Kind} {e : Effect} {d : Nat} {s t : State} (h : startAnimate k e d s = .next t) : SameRecord s t := by
  obtain ⟨-, rfl⟩ | ⟨a, -, hi⟩ := startAnimate_next h
  · exact .refl s
  · exact (animateIter_record hi :)

/-- No command's own rule writes the record: acceptance and rejection alone do. -/
theorem Ran.record {i : Instr} {s t : State} (h : Ran s i t) : SameRecord s t := by
  cases h with
  | render hr => exact (renderBegin_record hr :)
  | display _ hr => exact (renderBegin_record hr :)
  | animates _ ha => exact startAnimate_record ha
  | _ => exact .refl s

theorem exec_record_of_accepted {i : Instr} {s t : State} (hg : s.gate i = none) (h : exec i s = .next t) :
    t.cmdLast = encode i ∧ t.reject = s.reject ∧ t.rejectCause = s.rejectCause := by
  rw [exec_accepted hg] at h
  exact (commandBody_next h).record

/-! Lines 5 to 7 of rule R96. -/

theorem opcode_eq_abort_iff {i : Instr} : i.opcode = 0x0F ↔ i = .abort := by
  cases i <;> simp [Instr.opcode]

/-- Line 6: a busy block rejects every command but ABORT. -/
theorem gate_busy {s : State} {i : Instr} (hi : s.inert = false) (hf : s.fault = false) (habort : i ≠ .abort) (hop : s.op ≠ .none) :
    s.gate i = some .busy := by
  simp [State.gate, hi, hf, habort, hop]

theorem gate_abort_render {s : State} (hi : s.inert = false) (hf : s.fault = false) (hop : s.op = .render) :
    s.gate .abort = some .busy := by
  simp [State.gate, hi, hf, hop]

theorem gate_abort_none {s : State} (hi : s.inert = false) (hf : s.fault = false) (hop : s.op = .none) :
    s.gate .abort = some .notAbortable := by
  simp [State.gate, hi, hf, hop]

theorem writeCmd_rejected {s : State} {w : Word} {i : Instr} {c : RejectCause} (hok : decodeWord w = .ok i) (hg : s.gate i = some c) :
    writeCmd w s = .next (s.rejectWith c) := by
  rw [writeCmd_of_ok hok, exec_rejected hg]

/-- `accept` of rule R96: the command the word stands for runs, and CMD_LAST holds the word. -/
theorem writeCmd_accepted {s : State} {w : Word} {i : Instr} (hok : decodeWord w = .ok i) (hg : s.gate i = none) :
    ∃ j, decodeWord w = .ok j ∧ j.opcode = opcField w ∧ writeCmd w s = exec j s ∧
      ∀ t, writeCmd w s = .next t → t.cmdLast = w ∧ t.reject = s.reject ∧ t.rejectCause = s.rejectCause := by
  obtain ⟨hopc, -⟩ := decodeWord_eq_ok_iff.mp hok
  obtain ⟨-, hword⟩ := encodeOfDecodeIsIdentity w i hok
  refine ⟨i, hok, hopc.symm, writeCmd_of_ok hok s, fun t ht => ?_⟩
  rw [writeCmd_of_ok hok] at ht
  exact hword ▸ exec_record_of_accepted hg ht

/-- Settles O7: a word that matches its row decodes to a command, whose gate is lines 5 to 7; the other lines are lemmas above. -/
theorem commandWritesFollowTheAcceptanceOrder : Obligations.CommandWritesFollowTheAcceptanceOrder := by
  intro s w rest hin
  rw [step_writeCmd hin]
  refine ⟨fun hi => writeCmd_inert w hi, fun hi hf => writeCmd_faulted w hi hf, fun hi hf => ⟨fun hlegal => ?_, ?_, ?_⟩⟩
  · exact writeCmd_of_error hi hf (decodeWord_of_no_row hlegal)
  · rintro - ⟨row, hrow, hopc, hmatch⟩
    exact writeCmd_of_error hi hf (decodeWord_of_mismatch hrow hopc hmatch)
  rintro ⟨row, hrow, hopc⟩ hreserved
  have hmatch : w &&& row.mask = row.pattern := by_contra fun hne => hreserved ⟨row, hrow, hopc, hne⟩
  obtain ⟨i, hok, hrowopc⟩ := decodeWord_of_match hrow hmatch
  have hiopc : i.opcode = opcField w := hrowopc.trans hopc.symm
  refine ⟨fun habort => ?_, fun hother => ?_⟩
  · obtain rfl : i = .abort := opcode_eq_abort_iff.mp (hiopc.trans habort)
    exact ⟨fun hop => writeCmd_accepted hok (gate_abort_eq_none_iff.mpr ⟨hf, hi, hop⟩),
      fun hop => writeCmd_rejected hok (gate_abort_render hi hf hop), fun hop => writeCmd_rejected hok (gate_abort_none hi hf hop)⟩
  · have habort : i ≠ .abort := fun h => hother (hiopc.symm.trans (opcode_eq_abort_iff.mpr h))
    exact ⟨fun hop => writeCmd_rejected hok (gate_busy hi hf habort hop),
      fun hop => writeCmd_accepted hok ((gate_eq_none_iff habort).mpr ⟨hf, hi, hop⟩)⟩

end Sys2Proof.Machine
end

section
/-! PROOFS. The laws of the row word (rule R134): the pixel test after `set` and `clear`, a shift there and back, and the two combines. -/

namespace Sys2Proof

/-! `set`, `clear` and the pixel test (rules R125 to R127). -/

theorem isSet_ok {m : Bitmap} {b : Nat} (hb : b < m.nbits) : m.isSet b = .ok (m.pixel b) := if_neg (Nat.not_le.mpr hb)

theorem isSet_error {m : Bitmap} {b : Nat} (hb : m.nbits ≤ b) : m.isSet b = .error .xRange := if_pos hb

theorem isSet_of_set {m m' : Bitmap} {b : Nat} (hn : m.nbits ≤ 8) (h : m.set b = .ok m') : m'.isSet b = .ok true := by
  obtain ⟨hb, hwidth, -, hpixel⟩ := set_spec h hn
  rw [isSet_ok (hwidth ▸ hb), hpixel b hb]
  simp

theorem isSet_of_clear {m m' : Bitmap} {b : Nat} (hn : m.nbits ≤ 8) (h : m.clear b = .ok m') : m'.isSet b = .ok false := by
  obtain ⟨hb, hwidth, -, hpixel⟩ := clear_spec h hn
  rw [isSet_ok (hwidth ▸ hb), hpixel b hb]
  simp

/-- Settles O57. -/
theorem setAndClearDecideIsSet : Obligations.SetAndClearDecideIsSet := by
  intro m bit _ hn
  refine ⟨fun hb => ⟨?_, ?_⟩, fun hb => ⟨set_error m bit hb, clear_error m bit hb, isSet_error hb⟩⟩
  · exact ⟨_, set_ok m bit hb, isSet_of_set hn (set_ok m bit hb)⟩
  · exact ⟨_, clear_ok m bit hb, isSet_of_clear hn (clear_ok m bit hb)⟩

/-! A shift there and back (rules R129, R130). -/

theorem shiftLeft_shiftRight_pixel {m : Bitmap} {b : Nat} (k : Nat) (hn : m.nbits ≤ 8) (hc : m.Canonical) (hb : b < m.nbits) :
    ((m.shiftLeft k).shiftRight k).pixel b = (decide (k ≤ b) && m.pixel b) := by
  rw [shiftRight_pixel (m.shiftLeft k) k b hb hn]
  by_cases hk : k ≤ b
  · rw [shiftLeft_pixel m k (b - k) hc (by omega) hn, Nat.sub_add_cancel hk]
    simp [hb]
  · simp [hk]

theorem shiftRight_shiftLeft_pixel {m : Bitmap} {b : Nat} (k : Nat) (hn : m.nbits ≤ 8) (hb : b < m.nbits) :
    ((m.shiftRight k).shiftLeft k).pixel b = (decide (b + k < m.nbits) && m.pixel b) := by
  rw [shiftLeft_pixel (m.shiftRight k) k b (shiftRight_canonical m k) hb hn, shiftRight_nbits]
  by_cases hk : b + k < m.nbits
  · rw [shiftRight_pixel m k (b + k) hk hn, Nat.add_sub_cancel]
    simp
  · simp [hk]

/-- Settles O59: a shift right leaves the row canonical, so only the way left first needs a canonical row. -/
theorem shiftThereAndBackClearsTheEdge : Obligations.ShiftThereAndBackClearsTheEdge :=
  fun _ k _ hn hc hb => ⟨shiftLeft_shiftRight_pixel k hn hc hb, shiftRight_shiftLeft_pixel k hn hb⟩

/-! The combines (rules R131, R132). -/

theorem or_eq_some {m m' : Bitmap} (h : m.nbits = m'.nbits) : m.or m' = some (m.orRow m') := if_pos h

theorem and_eq_some {m m' : Bitmap} (h : m.nbits = m'.nbits) : m.and m' = some (m.andRow m') := if_pos h

theorem or_eq_none {m m' : Bitmap} (h : m.nbits ≠ m'.nbits) : m.or m' = none := if_neg h

theorem and_eq_none {m m' : Bitmap} (h : m.nbits ≠ m'.nbits) : m.and m' = none := if_neg h

theorem orRow_comm {m m' : Bitmap} (h : m.nbits = m'.nbits) : m.orRow m' = m'.orRow m :=
  congrArg₂ Bitmap.mk (BitVec.or_comm _ _) h

theorem andRow_comm {m m' : Bitmap} (h : m.nbits = m'.nbits) : m.andRow m' = m'.andRow m :=
  congrArg₂ Bitmap.mk (BitVec.and_comm _ _) h

theorem orRow_assoc (a b c : Bitmap) : (a.orRow b).orRow c = a.orRow (b.orRow c) :=
  congrArg₂ Bitmap.mk (BitVec.or_assoc _ _ _) rfl

theorem andRow_assoc (a b c : Bitmap) : (a.andRow b).andRow c = a.andRow (b.andRow c) :=
  congrArg₂ Bitmap.mk (BitVec.and_assoc _ _ _) rfl

theorem or_comm_of_nbits {a b : Bitmap} (h : a.nbits = b.nbits) : a.or b = b.or a := by
  rw [or_eq_some h, or_eq_some h.symm, orRow_comm h]

theorem and_comm_of_nbits {a b : Bitmap} (h : a.nbits = b.nbits) : a.and b = b.and a := by
  rw [and_eq_some h, and_eq_some h.symm, andRow_comm h]

theorem or_assoc_of_nbits {a b c : Bitmap} (hab : a.nbits = b.nbits) (hbc : b.nbits = c.nbits) :
    (a.or b).bind (fun m => m.or c) = (b.or c).bind (fun m => a.or m) := by
  rw [or_eq_some hab, or_eq_some hbc]
  calc (a.orRow b).or c = some ((a.orRow b).orRow c) := or_eq_some (hab.trans hbc)
    _ = some (a.orRow (b.orRow c)) := congrArg some (orRow_assoc a b c)
    _ = a.or (b.orRow c) := (or_eq_some (m' := b.orRow c) hab).symm

theorem and_assoc_of_nbits {a b c : Bitmap} (hab : a.nbits = b.nbits) (hbc : b.nbits = c.nbits) :
    (a.and b).bind (fun m => m.and c) = (b.and c).bind (fun m => a.and m) := by
  rw [and_eq_some hab, and_eq_some hbc]
  calc (a.andRow b).and c = some ((a.andRow b).andRow c) := and_eq_some (hab.trans hbc)
    _ = some (a.andRow (b.andRow c)) := congrArg some (andRow_assoc a b c)
    _ = a.and (b.andRow c) := (and_eq_some (m' := b.andRow c) hab).symm

/-- Settles O58. -/
theorem combineIsCommutativeAndAssociative : Obligations.CombineIsCommutativeAndAssociative :=
  fun _ _ _ => ⟨fun h => ⟨or_comm_of_nbits h, and_comm_of_nbits h⟩,
    fun hab hbc => ⟨or_assoc_of_nbits hab hbc, and_assoc_of_nbits hab hbc⟩, fun h => ⟨or_eq_none h, and_eq_none h⟩⟩

end Sys2Proof
end

section
/-! PROOFS. The pixel primitives of a frame (rules R142 to R144): the row is selected before the bit is tested, so the fault on `y` comes
first, and on a selected row the answer is that row's. -/

namespace Sys2Proof

theorem Frame.isSet_yRange {f : Frame} (x : Nat) {y : Nat} (hy : f.length ≤ y) : Frame.isSet f x y = .error .yRange := by
  simp [Frame.isSet, List.getElem?_eq_none hy]

theorem Frame.isSet_eq_row {f : Frame} (x : Nat) {y : Nat} (hy : y < f.length) : Frame.isSet f x y = f[y].isSet x := by
  simp [Frame.isSet, List.getElem?_eq_getElem hy]

/-! A column outside the width is the selected row's fault. -/

theorem Frame.setPixel_xRange {f : Frame} {w h x y : Nat} (hs : Frame.HasShape f w h) (hy : y < f.length) (hx : w ≤ x) :
    Frame.setPixel f x y = .error .xRange :=
  Frame.updateRow_of_error hy (set_error f[y] x (by rwa [hs.nbits_getElem y hy]))

theorem Frame.clearPixel_xRange {f : Frame} {w h x y : Nat} (hs : Frame.HasShape f w h) (hy : y < f.length) (hx : w ≤ x) :
    Frame.clearPixel f x y = .error .xRange :=
  Frame.updateRow_of_error hy (clear_error f[y] x (by rwa [hs.nbits_getElem y hy]))

theorem Frame.isSet_xRange {f : Frame} {w h x y : Nat} (hs : Frame.HasShape f w h) (hy : y < f.length) (hx : w ≤ x) :
    Frame.isSet f x y = .error .xRange :=
  (Frame.isSet_eq_row x hy).trans (isSet_error (by rwa [hs.nbits_getElem y hy]))

/-! In range, the frame differs in the selected row only, and the pixel test reads it. -/

theorem Frame.setPixel_ok {f : Frame} {w h x y : Nat} (hs : Frame.HasShape f w h) (hy : y < f.length) (hx : x < w) :
    Frame.setPixel f x y = .ok (List.set f y ⟨f[y].data ||| bitMask x, f[y].nbits⟩) :=
  Frame.updateRow_of_ok hy (set_ok f[y] x (by rwa [hs.nbits_getElem y hy]))

theorem Frame.clearPixel_ok {f : Frame} {w h x y : Nat} (hs : Frame.HasShape f w h) (hy : y < f.length) (hx : x < w) :
    Frame.clearPixel f x y = .ok (List.set f y ⟨f[y].data &&& ~~~bitMask x, f[y].nbits⟩) :=
  Frame.updateRow_of_ok hy (clear_ok f[y] x (by rwa [hs.nbits_getElem y hy]))

theorem Frame.isSet_ok {f : Frame} {w h x y : Nat} (hs : Frame.HasShape f w h) (hy : y < f.length) (hx : x < w) :
    Frame.isSet f x y = .ok (Frame.pixel f x y) := by
  rw [Frame.isSet_eq_row x hy, Frame.pixel_of_lt hs hx hy]
  exact Sys2Proof.isSet_ok (by rwa [hs.nbits_getElem y hy])

/-- Settles O60. -/
theorem framePrimitivesCheckYThenX : Obligations.FramePrimitivesCheckYThenX := by
  intro f w h x y hs
  obtain ⟨rfl, -⟩ := id hs
  refine ⟨fun hy => ?_, fun hy hx => ?_, fun hy hx => ?_⟩
  · exact ⟨Frame.updateRow_yRange _ hy, Frame.updateRow_yRange _ hy, Frame.isSet_yRange x hy⟩
  · exact ⟨Frame.setPixel_xRange hs hy hx, Frame.clearPixel_xRange hs hy hx, Frame.isSet_xRange hs hy hx⟩
  · exact ⟨⟨_, Frame.setPixel_ok hs hy hx⟩, ⟨_, Frame.clearPixel_ok hs hy hx⟩, Frame.isSet_ok hs hy hx⟩

end Sys2Proof
end

section
/-! PROOFS. The dimmer (spec/42_brightness.md): what the three level primitives return (rules R161 to R163), the commands that store it
(rules R168 to R170) and the dwell of a level (rule R166). -/

namespace Sys2Proof.Machine

/-! The dwell of a level. -/

/-- A brighter level leaves a smaller factor, and the floor of a smaller product is not larger. -/
theorem dwell_antitone (c : Config) : Antitone (dwell c) := fun _ _ h =>
  Nat.div_le_div_right (Nat.mul_le_mul_right c.kDwell (Nat.sub_le_sub_left h brMax))

theorem dwell_ten (c : Config) : dwell c 10 = 0 :=
  (congrArg (· / brMax) (Nat.zero_mul c.kDwell)).trans (Nat.zero_div brMax)

theorem dwell_zero (c : Config) : dwell c 0 = c.kDwell := Nat.mul_div_cancel_left c.kDwell (by decide)

theorem dwell_five (c : Config) : dwell c 5 = c.kDwell / 2 := Nat.mul_div_mul_left c.kDwell 2 (by decide : 0 < 5)

theorem dwell_le_kDwell (c : Config) (a : Nat) : dwell c a ≤ c.kDwell :=
  (dwell_antitone c (Nat.zero_le a)).trans_eq (dwell_zero c)

theorem dwell_lt_refreshTick {c : Config} (hc : c.WellFormed) (a : Nat) : dwell c a < c.refreshTick := by
  obtain ⟨-, -, -, -, -, -, hk⟩ := hc
  exact (dwell_le_kDwell c a).trans_lt hk

/-- Settles O32: all of it follows from the dwell falling with the level and from its value at level 0. -/
theorem dwellFallsWithBrightness : Obligations.DwellFallsWithBrightness := fun c hc =>
  ⟨fun _ _ => rfl, dwell_ten c, dwell_zero c, dwell_five c, fun _ _ h => dwell_antitone c h,
    fun a => ⟨dwell_le_kDwell c a, dwell_lt_refreshTick hc a⟩⟩

/-! The level primitives, by cases, and the commands. -/

theorem brightnessNew_eq_ite (v : Nat) : brightnessNew v = if v ≤ 10 then v else 10 := Nat.min_def

theorem brightnessAdd_eq_ite (b v : Nat) : brightnessAdd b v = if b + v ≤ 10 then b + v else 10 := Nat.min_def

/-- The subtraction of naturals is the saturating one of rule R16. -/
theorem brightnessSub_eq_ite (b v : Nat) : brightnessSub b v = if v ≤ b then b - v else 0 := by
  split
  · rfl
  · next h => exact Nat.sub_eq_zero_of_le (Nat.le_of_not_le h)

/-- In READY every command but ABORT runs its body, its word recorded (rules R96, R298). -/
theorem exec_of_ready {s : State} {i : Instr} (hi : i ≠ .abort) (h : s.Ready) : exec i s = commandBody i (s.acceptCmd i) :=
  exec_accepted ((gate_eq_none_iff hi).mpr h)

/-- Settles O31: each command is accepted and stores the level of its primitive. -/
theorem brightnessCommandsClampTheLevel : Obligations.BrightnessCommandsClampTheLevel := by
  intro s v h
  rw [← brightnessNew_eq_ite, ← brightnessAdd_eq_ite, ← brightnessSub_eq_ite]
  exact ⟨exec_of_ready nofun h, exec_of_ready nofun h, exec_of_ready nofun h⟩

end Sys2Proof.Machine
end

section
/-! PROOFS. Construction of an animation (rules R182, R186): its three answers as one case distinction on the source and the duration. -/

namespace Sys2Proof.Machine

theorem stepsOf_eq_animLength (c : Config) (e : Effect) (n : Nat) : stepsOf c e n = animLength c e n := by
  cases e <;> rfl

/-- An animation has no steps exactly when its source is empty: a frame has at least one column (rule R182). -/
theorem stepsOf_eq_zero_iff {c : Config} (hc : 1 ≤ c.cols) (e : Effect) (n : Nat) : stepsOf c e n = 0 ↔ n = 0 := by
  cases e
  · exact Iff.rfl
  · exact Nat.mul_eq_zero.trans (or_iff_left (Nat.ne_of_gt hc))

/-- The two `TooFast` tests of construction are one: no element, or fewer ticks than steps (rule R186). -/
theorem animNew_eq_ite {c : Config} (hc : 1 ≤ c.cols) (now : Nat) (kind : Kind) (base n : Word) (e : Effect) (d : Nat) :
    animNew c now kind base n e d =
      if n.toNat = 0 ∨ d < stepsOf c e n.toNat then .tooFast
      else if 2 ^ 64 ≤ now + d then .overflow
      else .ok (animStart now kind base n e (stepsOf c e n.toNat) (d / stepsOf c e n.toNat)) := by
  simp only [animNew, ← stepsOf_eq_animLength, Nat.div_eq_zero_iff, stepsOf_eq_zero_iff hc, timeLimit]
  by_cases h0 : n.toNat = 0
  · simp only [h0, true_or, if_true]
  · simp only [h0, false_or, if_false]

/-- Settles O37: the three answers are the three branches of `animNew_eq_ite`. -/
theorem constructionSucceedsExactlyWhenTimely : Obligations.ConstructionSucceedsExactlyWhenTimely := by
  intro c now kind base n e d ⟨hcols, _⟩
  rw [animNew_eq_ite hcols]
  split_ifs with hfast hover
  · exact ⟨iff_of_true rfl hfast, iff_of_false nofun fun h => h.1 hfast, nofun⟩
  · exact ⟨iff_of_false nofun hfast, iff_of_true rfl ⟨hfast, hover⟩, nofun⟩
  · have hwait : 0 < d / stepsOf c e n.toNat := by
      have := stepsOf_eq_zero_iff hcols e n.toNat
      exact Nat.div_pos (by omega) (by omega)
    refine ⟨iff_of_false nofun hfast, iff_of_false nofun fun h => hover h.2, ?_⟩
    rintro _ ⟨⟩
    exact ⟨rfl, rfl, rfl, rfl, rfl, rfl, rfl, rfl, rfl, hwait, rfl⟩

end Sys2Proof.Machine
end

section
/-! PROOFS. The present frame of an animation, pixel by pixel (rule R190): two source frames side by side. -/

namespace Sys2Proof

/-- Two canonical frames of one shape are equal when their pixels are (rules R133, R140). -/
theorem Frame.ext_pixel {f g : Frame} {w h : Nat} (hf : Frame.HasShape f w h) (hg : Frame.HasShape g w h) (hw : w ≤ 8)
    (hcf : Frame.Canonical f) (hcg : Frame.Canonical g) (hp : ∀ x < w, ∀ y < h, Frame.pixel f x y = Frame.pixel g x y) : f = g := by
  apply List.ext_getElem (hf.1.trans hg.1.symm)
  intro y hyf hyg
  have hnf := hf.nbits_getElem y hyf
  refine Bitmap.ext_pixel (hnf.trans (hg.nbits_getElem y hyg).symm) (hnf.trans_le hw) (hcf _ (List.getElem_mem hyf))
    (hcg _ (List.getElem_mem hyg)) fun x hx => ?_
  have hxw : x < w := hnf ▸ hx
  rw [← Frame.pixel_of_lt hf hxw hyf, ← Frame.pixel_of_lt hg hxw hyg]
  exact hp x hxw y (hf.1 ▸ hyf)

end Sys2Proof

namespace Sys2Proof.Machine

theorem animNextFrame_pixel (c : Config) (m : Memory) (a : Anim) (x y : Nat) :
    Frame.pixel (animNextFrame c m a) x y =
      if a.frameIndex + 1 < a.n.toNat then Frame.pixel (srcFrame c m a.kind a.base (a.frameIndex + 1)) x y else false := by
  unfold animNextFrame
  split
  · rfl
  · exact Frame.empty_pixel ..

/-- Settles O38: of the two shifted frames, the present one is dark from column `COLS - s` on and the next one before it. -/
theorem slideJuxtaposesTwoFrames : Obligations.SlideJuxtaposesTwoFrames := by
  intro c m a ⟨_, hcols, _⟩ hs x hx y hy
  have hcur := srcFrame_shape c m a.kind a.base a.frameIndex
  have hnext := animNextFrame_shape c m a
  rw [animCurrent_eq, Frame.orRows_pixel (Frame.shiftLeft_shape hcur _) (Frame.shiftRight_shape hnext _) hx hy,
    Frame.shiftLeft_pixel hcur hcols (srcFrame_canonical c m _ _ _) _ hx hy, Frame.shiftRight_pixel hnext hcols _ hx hy]
  by_cases hin : x + a.sequence < c.cols
  · rw [if_pos hin, decide_eq_false (by omega), Bool.false_and, Bool.or_false]
  · rw [if_neg hin, Frame.pixel_of_ge hcur (.inl (by omega)), decide_eq_true (by omega), Bool.false_or, Bool.true_and,
      animNextFrame_pixel, show x - (c.cols - a.sequence) = x + a.sequence - c.cols by omega]

/-- With the shift at 0 the next frame vanishes and the present source frame stands unshifted (rule R190, its corner case). -/
theorem animCurrent_of_sequence_zero {c : Config} (hc : c.WellFormed) (m : Memory) {a : Anim} (h0 : a.sequence = 0) :
    animCurrent c m a = srcFrame c m a.kind a.base a.frameIndex := by
  obtain ⟨hpos, hcols, -⟩ := id hc
  refine Frame.ext_pixel (animCurrent_shape c m a) (srcFrame_shape c m _ _ _) hcols (animCurrent_canonical c m a)
    (srcFrame_canonical c m _ _ _) fun x hx y hy => ?_
  rw [slideJuxtaposesTwoFrames c m a hc (by omega) x hx y hy, h0, Nat.add_zero, if_pos hx]

end Sys2Proof.Machine
end

section
/-! PROOFS. The closed form of an animation (rules R194, R195): the registers after any number of Apply events, and what a sequence of
polls makes of them. -/

namespace Sys2Proof.Machine

/-! The registers after `k` events. -/

/-- The registers after `k` Apply events, whenever these came (rule R192). -/
def Anim.afterEvents (c : Config) (a : Anim) (k : Nat) : Anim := (animAdvance c)^[k] a

theorem Anim.afterEvents_zero (c : Config) (a : Anim) : a.afterEvents c 0 = a := rfl

theorem Anim.afterEvents_succ (c : Config) (a : Anim) (k : Nat) : a.afterEvents c (k + 1) = animAdvance c (a.afterEvents c k) :=
  Function.iterate_succ_apply' ..

theorem Anim.afterEvents_animAdvance (c : Config) (a : Anim) (k : Nat) : (animAdvance c a).afterEvents c k = a.afterEvents c (k + 1) :=
  rfl

/-- The operands stay, the index counts the events, and each of them moves the deadline by one interval (rules R192, R195). -/
theorem Anim.afterEvents_spec (c : Config) (a : Anim) (k : Nat) :
    (a.afterEvents c k).kind = a.kind ∧ (a.afterEvents c k).base = a.base ∧ (a.afterEvents c k).n = a.n ∧
      (a.afterEvents c k).effect = a.effect ∧ (a.afterEvents c k).length = a.length ∧ (a.afterEvents c k).wait = a.wait ∧
      (a.afterEvents c k).index = a.index + k ∧ (a.afterEvents c k).next = a.next + k * a.wait := by
  induction k with
  | zero => simp [Anim.afterEvents_zero]
  | succ k ih =>
    obtain ⟨hkind, hbase, hn, heff, hlen, hwait, hidx, hnext⟩ := ih
    obtain ⟨akind, abase, an, aeff, alen, await, aidx, anext⟩ := animAdvance_spec c (a.afterEvents c k)
    rw [Anim.afterEvents_succ]
    refine ⟨akind.trans hkind, abase.trans hbase, an.trans hn, aeff.trans heff, alen.trans hlen, await.trans hwait, ?_, ?_⟩
    · rw [aidx, hidx, Nat.add_assoc]
    · rw [anext, hnext, hwait, Nat.succ_mul, Nat.add_assoc]

theorem Anim.Running.afterEvents {c : Config} {a : Anim} (h : a.Running c) (hc : 1 ≤ c.cols) {k : Nat}
    (hk : k ≤ a.length - a.index) : (a.afterEvents c k).Running c := by
  induction k with
  | zero => exact h
  | succ k ih =>
    obtain ⟨-, -, -, -, hlen, -, hidx, -⟩ := a.afterEvents_spec c k
    rw [Anim.afterEvents_succ]
    exact (ih (by omega)).advance (by omega) hc

/-- Under Slide the progress registers are quotient and remainder of the number of events (rule R194). -/
theorem Anim.Running.slide_divMod {c : Config} {a : Anim} (h : a.Running c) (he : a.effect = .slide) :
    a.frameIndex = a.index / c.cols ∧ a.sequence = a.index % c.cols := by
  obtain ⟨hseq, hidx⟩ := h.slide_progress he
  obtain ⟨hdiv, hmod⟩ := (Nat.div_mod_unique (Nat.zero_lt_of_lt hseq)).mpr
    ⟨show a.sequence + c.cols * a.frameIndex = a.index by rw [hidx, Nat.mul_comm, Nat.add_comm], hseq⟩
  exact ⟨hdiv.symm, hmod.symm⟩

/-- The frame shown just before an event is that of its index in the closed form (rule R194). -/
theorem Anim.Running.animCurrent_eq_eventFrame {c : Config} {a : Anim} (h : a.Running c) (hc : c.WellFormed) (m : Memory) :
    animCurrent c m a = eventFrame c m a a.index := by
  cases he : a.effect
  case none =>
    obtain ⟨hseq, hidx⟩ := h.none_progress he
    rw [animCurrent_of_sequence_zero hc m hseq, hidx]
    simp only [eventFrame, he]
  case slide =>
    obtain ⟨hframe, hseq⟩ := h.slide_divMod he
    simp only [eventFrame, he, animCurrent, hframe, hseq]

/-- The closed form reads the operands only, so it is the same after any number of events. -/
theorem eventFrame_afterEvents (c : Config) (m : Memory) (a : Anim) (k i : Nat) :
    eventFrame c m (a.afterEvents c k) i = eventFrame c m a i := by
  obtain ⟨hkind, hbase, hn, heff, -⟩ := a.afterEvents_spec c k
  simp only [eventFrame, hkind, hbase, hn, heff]

/-! Polls. -/

/-- A poll applies a frame exactly when it is due and a step is left; any other poll leaves the registers alone (rule R192). -/
theorem pollAll_cons (c : Config) (m : Memory) (t : Nat) (ts : List Nat) (a : Anim) :
    pollAll c m (t :: ts) a =
      if a.next ≤ t ∧ a.index < a.length then
        (animCurrent c m a :: (pollAll c m ts (animAdvance c a)).1, (pollAll c m ts (animAdvance c a)).2)
      else pollAll c m ts a := by
  by_cases hdue : t < a.next
  · simp [pollAll, animPoll, hdue]
  · by_cases hleft : a.index < a.length
    · simp [pollAll, animPoll, hdue, hleft, Nat.le_of_not_lt hdue]
    · simp [pollAll, animPoll, hdue, hleft]

/-- Whatever their times, polls apply the frames of some number of events, one after the other, and leave the registers of that many. -/
theorem pollAll_eq_afterEvents (c : Config) (m : Memory) (ts : List Nat) (a : Anim) :
    ∃ k ≤ a.length - a.index,
      pollAll c m ts a = ((List.range k).map fun i => animCurrent c m (a.afterEvents c i), a.afterEvents c k) := by
  induction ts generalizing a with
  | nil => exact ⟨0, Nat.zero_le _, rfl⟩
  | cons t ts ih =>
    rw [pollAll_cons]
    split
    · next happly =>
      obtain ⟨k, hk, heq⟩ := ih (animAdvance c a)
      obtain ⟨-, -, -, -, hlen, -, hidx, -⟩ := animAdvance_spec c a
      refine ⟨k + 1, by omega, ?_⟩
      rw [heq, List.range_succ_eq_map, List.map_cons, List.map_map]
      rfl
    · exact ih a

/-- Polls that all come after the last deadline apply one frame each until no step is left (rule R195). -/
theorem pollAll_length_of_late (c : Config) (m : Memory) {ts : List Nat} {a : Anim} {late : Nat}
    (hlate : a.next + (a.length - a.index) * a.wait ≤ late) (hts : ∀ t ∈ ts, late ≤ t) :
    (pollAll c m ts a).1.length = min ts.length (a.length - a.index) := by
  induction ts generalizing a with
  | nil => simp [pollAll]
  | cons t ts ih =>
    obtain ⟨ht, hts⟩ := List.forall_mem_cons.mp hts
    rw [pollAll_cons]
    by_cases hleft : a.index < a.length
    · obtain ⟨-, -, -, -, hlen, hwait, hidx, hnext⟩ := animAdvance_spec c a
      have hsplit : a.length - a.index = (a.length - (a.index + 1)) + 1 := by omega
      rw [hsplit, Nat.succ_mul] at hlate
      rw [if_pos ⟨by omega, hleft⟩, List.length_cons, ih (by rw [hlen, hwait, hidx, hnext]; omega) hts, hlen, hidx,
        List.length_cons]
      omega
    · rw [if_neg fun h => hleft h.2, ih hlate hts]
      omega

theorem animPoll_done {c : Config} {t : Nat} {a : Anim} (m : Memory) (ht : a.next ≤ t) (hlen : a.length ≤ a.index) :
    animPoll c m t a = (.done, a) := by
  rw [animPoll, if_neg (Nat.not_lt.mpr ht), if_neg (Nat.not_lt.mpr hlen)]

/-- Settles O39: `pollAll_eq_afterEvents`, with the closed form of the registers after so many events. -/
theorem appliedFramesFollowTheClosedForm : Obligations.AppliedFramesFollowTheClosedForm := by
  intro c m now kind base n e d a times hc hnew
  obtain ⟨hpos, hcols, -⟩ := id hc
  obtain ⟨hrun, -⟩ := animNew_running hnew hpos hcols
  obtain ⟨-, -, hregs⟩ := constructionSucceedsExactlyWhenTimely c now kind base n e d hc
  obtain ⟨-, -, -, heff0, -, -, hidx0, hlen0, -, -, hnext0⟩ := hregs a hnew
  obtain ⟨k, hk, hpoll⟩ := pollAll_eq_afterEvents c m times a
  obtain ⟨-, -, -, heff, -, -, hidx, hnext⟩ := a.afterEvents_spec c k
  rw [hidx0, Nat.zero_add] at hidx
  have hrunk := hrun.afterEvents hpos hk
  simp only [hpoll, List.length_map, List.length_range]
  refine ⟨List.map_congr_left fun i hi => ?_, by omega, hidx, by rw [hnext, hnext0], fun he => ?_, fun he => ?_⟩
  · obtain ⟨-, -, -, -, -, -, hidxi, -⟩ := a.afterEvents_spec c i
    have hik := List.mem_range.mp hi
    rw [(hrun.afterEvents hpos (by omega)).animCurrent_eq_eventFrame hc, eventFrame_afterEvents, hidxi, hidx0, Nat.zero_add]
  · obtain ⟨hframe, hseq⟩ := hrunk.slide_divMod (heff.trans (heff0.trans he))
    rw [hidx] at hframe hseq
    exact ⟨hframe, hseq⟩
  · obtain ⟨hseq, hframe⟩ := hrunk.none_progress (heff.trans (heff0.trans he))
    exact ⟨hframe.symm.trans hidx, hseq⟩

/-- Settles O40: late polls apply every step, and after the last of them the deadline is not past `now + d`. -/
theorem animationAppliesExactlyItsSteps : Obligations.AnimationAppliesExactlyItsSteps := by
  intro c m now kind base n e d a times hc hnew htimes hmany
  obtain ⟨-, -, hregs⟩ := constructionSucceedsExactlyWhenTimely c now kind base n e d hc
  obtain ⟨-, -, -, -, -, -, hidx0, hlen, hwait, -, hnext0⟩ := hregs a hnew
  have hend : now + stepsOf c e n.toNat * a.wait ≤ now + d := by
    rw [hwait]
    exact Nat.add_le_add_left (Nat.mul_div_le d _) now
  have hcount : (pollAll c m times a).1.length = stepsOf c e n.toNat := by
    rw [pollAll_length_of_late c m (by rw [hidx0, hnext0, hlen]; exact hend) htimes, hidx0, hlen]
    exact Nat.min_eq_right hmany
  obtain ⟨-, -, hidx, hnext, -⟩ := appliedFramesFollowTheClosedForm c m now kind base n e d a times hc hnew
  obtain ⟨k, -, hpoll⟩ := pollAll_eq_afterEvents c m times a
  obtain ⟨-, -, -, -, hlenk, -⟩ := a.afterEvents_spec c k
  refine ⟨hcount, fun t ht => ?_⟩
  have hdue : (pollAll c m times a).2.next ≤ t := by
    rw [hnext, hcount]
    exact hend.trans ht
  have hover : (pollAll c m times a).2.length ≤ (pollAll c m times a).2.index := by
    rw [hidx, hcount, hpoll, hlenk, hlen]
  rw [animPoll_done m hdue hover]

end Sys2Proof.Machine
end

section
/-! PROOFS. The scan picture (rules R221, R222, R241). The first half of a render makes it anew, the second half turns the columns of a dwell
into those of the row it lights, an idle block has none to keep, and nothing else writes what it speaks of. -/

namespace Sys2Proof.Machine

variable {s t : State}

/-- The columns a render drives are the pixels of row `row_p`, and there is no pixel beyond them. -/
theorem renderColumns_getElem? (hs : Frame.HasShape s.fb s.cfg.cols s.cfg.rows) (hp : s.rowP < s.cfg.rows) (x : Nat) :
    s.renderColumns[x]? = if x < s.cfg.cols then some (s.pixel x s.rowP) else none := by
  have hlen : s.rowP < s.fb.length := hs.1.symm ▸ hp
  unfold State.renderColumns
  split
  · next hx => rw [State.pixel, Frame.pixel_of_lt hs hx hlen]; simp [hx, hlen]
  · next hx => simp [hx]

/-- Rule R221: what the first half of a render drives. -/
theorem beginDwell_drivesRow (hs : Frame.HasShape s.fb s.cfg.cols s.cfg.rows) (hp : s.rowP < s.cfg.rows) :
    s.beginDwell.DrivesRow s.rowP := by
  refine ⟨rfl, by simp [State.renderColumns], fun x hx => ?_⟩
  exact (renderColumns_getElem? hs hp x).trans (if_pos hx)

/-- Rule R222: the second half of a render lights one row of a dark matrix. -/
theorem renderEnd_rowOut_getD (hdark : s.rowOut = List.replicate s.cfg.rows false) (hp : s.rowP < s.cfg.rows) (y : Nat) :
    s.renderEnd.rowOut.getD y false = decide (y = s.rowP) := by
  rw [renderEnd_rowOut, hdark, List.getD_eq_getElem?_getD]
  by_cases hy : y = s.rowP
  · simp [hy, hp]
  · rw [List.getElem?_set_ne (Ne.symm hy), decide_eq_false hy, List.getElem?_replicate]
    split <;> rfl

/-- The row before the advanced scan pointer is the one just rendered. -/
theorem lastRow_renderEnd (hp : s.rowP < s.cfg.rows) : s.renderEnd.lastRow = s.rowP := by
  rw [State.lastRow, renderEnd_rowP, renderEnd_cfg, succ_mod_eq_ite hp]
  split
  · next hwrap => rw [Nat.mod_eq_of_lt (by omega)]; omega
  · rw [show s.rowP + 1 + s.cfg.rows - 1 = s.rowP + s.cfg.rows by omega, Nat.add_mod_right, Nat.mod_eq_of_lt hp]

theorem scanPicture_of_idle (hp : t.phase = .idle) : t.ScanPicture where
  dwell_columns := fun h => by simp [hp] at h
  tick_row := fun h => by simp [hp] at h
  tick_columns := fun h => by simp [hp] at h

/-! The operations. A render's picture rests on the invariant of the state it leaves, whose buffer and scan pointer it reads. -/

theorem renderBegin_scanPicture (ht : t.Inv) (h : renderBegin s = .next t) : t.ScanPicture := by
  obtain ⟨-, rfl⟩ := renderBegin_next.mp h
  obtain ⟨-, -, hcols⟩ := beginDwell_drivesRow (s := s) ht.fb_shape ht.rowP_lt
  exact ⟨fun _ => hcols, nofun, nofun⟩

theorem animateIter_scanPicture (ht : t.Inv) (h : animateIter s = .next t) : t.ScanPicture := by
  obtain ⟨-, hr⟩ | ⟨-, -, hr⟩ | ⟨-, -, rfl⟩ := animateIter_next h
  · exact renderBegin_scanPicture ht hr
  · exact renderBegin_scanPicture ht hr
  · exact scanPicture_of_idle rfl

theorem startAnimate_scanPicture {k : Kind} {e : Effect} {d : Nat} (hp : s.phase = .idle) (ht : t.Inv)
    (h : startAnimate k e d s = .next t) : t.ScanPicture := by
  obtain ⟨-, rfl⟩ | ⟨a, -, hi⟩ := startAnimate_next h
  · exact scanPicture_of_idle hp
  · exact animateIter_scanPicture ht hi

theorem tickEnd_scanPicture (ht : t.Inv) (h : tickEnd s = .next t) : t.ScanPicture := by
  obtain ⟨-, rfl⟩ | ⟨-, -, -, rfl⟩ | ⟨-, -, -, hr⟩ | ⟨-, -, hi⟩ := tickEnd_next h
  · exact scanPicture_of_idle rfl
  · exact scanPicture_of_idle rfl
  · exact renderBegin_scanPicture ht hr
  · exact animateIter_scanPicture ht hi

/-- The columns of the dwell become those of the row that goes active (rules R222, R262). -/
theorem dwellEnd_scanPicture (hs : s.Inv) (hpic : s.ScanPicture) (hp : s.phase = .dwell) (h : dwellEnd s = .next t) :
    t.ScanPicture := by
  obtain ⟨-, rfl⟩ | ⟨-, -, rfl⟩ := dwellEnd_next h
  · exact scanPicture_of_idle rfl
  · have hlast : s.renderEnd.lastRow = s.rowP := lastRow_renderEnd hs.rowP_lt
    have hrow := renderEnd_rowOut_getD (hs.dwell_dark hp) hs.rowP_lt
    rw [← hlast] at hrow
    have hcols := hpic.dwell_columns hp
    rw [← hlast] at hcols
    exact ⟨nofun, fun _ => hrow, fun _ => hcols⟩

theorem blockStep_scanPicture (hs : s.Inv) (hpic : s.ScanPicture) (ht : t.Inv) (h : blockStep s = .next t) : t.ScanPicture := by
  obtain ⟨hp, -, hd⟩ | ⟨-, -, htick⟩ | ⟨-, rfl⟩ := blockStep_next h
  · exact dwellEnd_scanPicture hs hpic hp hd
  · exact tickEnd_scanPicture ht htick
  · exact hpic

/-- ABORT writes only its latch; every other accepted command starts from an idle block, and stays idle or renders. -/
theorem Ran.scanPicture {i : Instr} (hs : s.Inv) (hpic : s.ScanPicture) (ht : t.Inv) (hg : s.gate i = none) (h : Ran s i t) :
    t.ScanPicture := by
  have hidle (hi : i ≠ .abort) : s.phase = .idle := by
    obtain ⟨-, -, hop⟩ := (gate_eq_none_iff hi).mp hg
    exact hs.idle_iff.mp hop
  cases h with
  | abort => exact { hpic with }
  | render hr => exact renderBegin_scanPicture ht hr
  | display _ hr => exact renderBegin_scanPicture ht hr
  | animates hi ha => exact startAnimate_scanPicture (hidle hi.ne_abort) ht ha
  | _ => exact scanPicture_of_idle (hidle nofun)

theorem writeCmd_scanPicture {w : Word} (hs : s.Inv) (hpic : s.ScanPicture) (ht : t.Inv) (h : writeCmd w s = .next t) :
    t.ScanPicture := by
  obtain ⟨i, -, he⟩ | ⟨_, c, -, rfl⟩ := writeCmd_next h
  · obtain ⟨c, -, rfl⟩ | ⟨hg, hr⟩ := exec_next he
    · exact { hpic with }
    · exact hr.scanPicture (hs.acceptCmd i) { hpic with } ht hg
  · exact { hpic with }

theorem State.ScanPicture.writeStatus (hpic : s.ScanPicture) (v : Word) : (s.writeStatus v).ScanPicture := by
  unfold State.writeStatus
  split
  · exact { hpic with }
  · exact hpic

theorem regWrite_scanPicture {off : Nat} {v : Word} (hs : s.Inv) (hpic : s.ScanPicture) (ht : t.Inv)
    (h : regWrite off v s = .next t) : t.ScanPicture := by
  obtain ⟨-, hw⟩ | ⟨-, rfl⟩ | ⟨-, rfl⟩ | ⟨-, rfl⟩ | ⟨-, rfl⟩ | ⟨-, rfl⟩ | rfl := regWrite_next h
  · exact writeCmd_scanPicture hs hpic ht hw
  · exact hpic.writeStatus v
  all_goals exact { hpic with }

/-- Settles O11: each agent's move keeps the scan picture, given the invariant of both its states. -/
theorem stepKeepsScanPicture : Obligations.StepKeepsScanPicture := by
  intro s t hs hpic h
  have ht : t.Inv := stepKeepsInvariant s t hs h
  cases step_next h with
  | block l r _ hb => exact blockStep_scanPicture (hs.withAgents l r) { hpic with } ht hb
  | time l r n _ _ _ heq => exact heq ▸ { hpic with }
  | quiet l r _ heq => exact heq ▸ { hpic with }
  | source a v rest _ heq => exact heq ▸ { hpic with }
  | reset rest _ heq => exact heq ▸ scanPicture_of_idle rfl
  | write off v rest _ _ _ hw => exact regWrite_scanPicture (hs.withAgents rest s.readData) { hpic with } ht hw

end Sys2Proof.Machine
end

section
/-! PROOFS. A stopped block (rules R33, R226, R285, R298): while it is INERT or FAULTED it has no step of its own and rejects every command,
so only the operand registers, the rejection record and what is outside the block can change. -/

namespace Sys2Proof.Machine

variable {s t : State}

/-- Only the operand registers, the rejection record and the block's surroundings may differ. -/
abbrev BlockHeld (s t : State) : Prop :=
  t = { s with
    srcBase := t.srcBase, srcLen := t.srcLen, durationLo := t.durationLo, durationHi := t.durationHi, reject := t.reject,
    rejectCause := t.rejectCause, now := t.now, src := t.src, inputs := t.inputs, readData := t.readData }

/-- An idle block has no step of its own (rules R262, R263). -/
theorem blockStep_idle (h : blockStep s = .next t) (hp : s.phase = .idle) : t = s := by
  obtain ⟨hdwell, -⟩ | ⟨htick, -⟩ | ⟨-, rfl⟩ := blockStep_next h
  · exact absurd (hp.symm.trans hdwell) nofun
  · exact absurd (hp.symm.trans htick) nofun
  · rfl

/-- Lines 1 and 2 of rule R96 decide for every word. -/
theorem writeCmd_stopped (hstop : s.inert = true ∨ s.fault = true) (w : Word) : ∃ c, writeCmd w s = .next (s.rejectWith c) := by
  cases hi : s.inert with
  | true => exact ⟨.inert, writeCmd_inert w hi⟩
  | false => exact ⟨.faulted, writeCmd_faulted w hi (hstop.resolve_left (by simp [hi]))⟩

theorem writeStatus_held (s : State) (v : Word) : BlockHeld s (s.writeStatus v) := by
  unfold State.writeStatus
  split <;> rfl

theorem regWrite_held {off : Nat} {v : Word} (hstop : s.inert = true ∨ s.fault = true) (h : regWrite off v s = .next t) :
    BlockHeld s t := by
  obtain ⟨-, hw⟩ | ⟨-, rfl⟩ | ⟨-, rfl⟩ | ⟨-, rfl⟩ | ⟨-, rfl⟩ | ⟨-, rfl⟩ | rfl := regWrite_next h
  · obtain ⟨c, hc⟩ := writeCmd_stopped hstop v
    cases hc.symm.trans hw
    rfl
  · exact writeStatus_held s v
  all_goals rfl

/-- Reset alone changes a stopped block; it serves FAULTED as well as INERT. -/
theorem Moved.held (h : Moved s t) (hp : s.phase = .idle) (hstop : s.inert = true ∨ s.fault = true)
    (hreset : s.inputs.head? ≠ some .reset) : BlockHeld s t := by
  cases h with
  | block l r _ hb => obtain rfl := blockStep_idle hb hp; rfl
  | time l r n _ _ _ ht => subst ht; rfl
  | quiet l r _ ht => subst ht; rfl
  | source a v rest _ ht => subst ht; rfl
  | reset rest hin _ => exact absurd (by rw [hin]; rfl) hreset
  | write off v rest _ _ _ hw => exact (regWrite_held (s := { s with inputs := rest }) hstop hw :)

/-! Rule R33: with `oe` at 0 no pin is driven, so no LED is lit. -/

theorem rowPin_undriven (hoe : s.oe = false) (y : Nat) : s.rowPin y = none := by simp [State.rowPin, hoe]

theorem colPin_undriven (hoe : s.oe = false) (x : Nat) : s.colPin x = none := by simp [State.colPin, hoe]

theorem lit_undriven (hoe : s.oe = false) (x y : Nat) : s.lit x y = false := by simp [State.lit, hoe]

/-- Settles O17: an inert block is idle, and `oe` is 0 as long as it is inert. -/
theorem inertBlockHoldsUntilReset : Obligations.InertBlockHoldsUntilReset := by
  intro s t h hinert hreset hs
  have hidle : s.phase = .idle := h.idle_iff.mp (h.inert_idle hinert)
  have hheld : BlockHeld s t := (step_next hs).held hidle (.inl hinert) hreset
  have hoe : t.oe = false := (congrArg State.oe hheld).trans (h.oe_iff.mpr hinert)
  exact ⟨hheld, fun x y => ⟨rowPin_undriven hoe y, colPin_undriven hoe x, lit_undriven hoe x y⟩⟩

end Sys2Proof.Machine
end

section
/-! PROOFS. The commands on the frame buffer and the release of the pins (rules R210 to R218, R226): what each one leaves in READY. -/

namespace Sys2Proof

/-! One pixel changed. -/

/-- A frame with one pixel of one row changed to `v`. -/
theorem Frame.pixel_set_row {f : Frame} {w h x y : Nat} {row' : Bitmap} (v : Bool) (hs : Frame.HasShape f w h) (hy : y < f.length)
    (hx : x < w) (hwidth : row'.nbits = w) (hrow : ∀ j < w, row'.pixel j = if j = x then v else f[y].pixel j) (a b : Nat) :
    Frame.pixel (List.set f y row') a b = if a = x ∧ b = y then v else Frame.pixel f a b := by
  rw [Frame.pixel_set hy]
  by_cases hb : b = y
  · subst hb
    by_cases ha : a < w
    · simp [hwidth, ha, hrow a ha, Frame.pixel_of_lt hs ha hy]
    · have hax : a ≠ x := by omega
      simp [hwidth, ha, hax, Frame.pixel_of_ge hs (.inl (Nat.le_of_not_lt ha))]
  · simp [hb]

/-- Rule R142: that pixel on, every other as before. -/
theorem Frame.setPixel_pixel {f f' : Frame} {w h x y : Nat} (hs : Frame.HasShape f w h) (hw : w ≤ 8)
    (he : Frame.setPixel f x y = .ok f') (a b : Nat) :
    Frame.pixel f' a b = (decide (a = x ∧ b = y) || Frame.pixel f a b) := by
  obtain ⟨hy, row', hset, rfl⟩ := Frame.updateRow_ok he
  obtain rfl := hs.nbits_getElem y hy
  obtain ⟨hx, hwidth, -, hrow⟩ := set_spec hset hw
  rw [Frame.pixel_set_row true hs hy hx hwidth (fun j hj => by rw [hrow j hj]; by_cases hjx : j = x <;> simp [hjx])]
  by_cases hab : a = x ∧ b = y <;> simp [hab]

/-- Rule R143: that pixel off, every other as before. -/
theorem Frame.clearPixel_pixel {f f' : Frame} {w h x y : Nat} (hs : Frame.HasShape f w h) (hw : w ≤ 8)
    (he : Frame.clearPixel f x y = .ok f') (a b : Nat) :
    Frame.pixel f' a b = (!decide (a = x ∧ b = y) && Frame.pixel f a b) := by
  obtain ⟨hy, row', hclear, rfl⟩ := Frame.updateRow_ok he
  obtain rfl := hs.nbits_getElem y hy
  obtain ⟨hx, hwidth, -, hrow⟩ := clear_spec hclear hw
  rw [Frame.pixel_set_row false hs hy hx hwidth (fun j hj => by rw [hrow j hj]; by_cases hjx : j = x <;> simp [hjx])]
  by_cases hab : a = x ∧ b = y <;> simp [hab]

/-- The word of a command whose operands fit their fields (rule R91). -/
theorem encode_eq_ofNat {i : Instr} (ha : i.operandA < 256) (hb : i.operandB < 256) :
    encode i = BitVec.ofNat 32 (i.opcode + 0x100 * i.operandA + 0x10000 * i.operandB) := by
  have ho : i.opcode < 256 := by cases i <;> simp [Instr.opcode]
  apply BitVec.eq_of_toNat_eq
  rw [encode_toNat, BitVec.toNat_ofNat]
  omega

end Sys2Proof

namespace Sys2Proof.Machine

/-- Settles O27: in range the pixel primitive succeeds, and out of range its error is the fault that is entered. -/
theorem onSetsExactlyThatPixel : Obligations.OnSetsExactlyThatPixel := by
  intro s x y h hready
  have hexec : exec (.on x y) s = pixelResult (Frame.setPixel s.fb x y) (s.acceptCmd (.on x y)) := exec_of_ready nofun hready
  obtain ⟨-, hcols, -, hrows, -⟩ := h.cfg_wf
  obtain ⟨hyRange, hxRange, hinside⟩ := framePrimitivesCheckYThenX s.fb _ _ x y h.fb_shape
  rw [hexec]
  refine ⟨fun hx hy => ?_, fun hy => ?_, fun hy hx => ?_⟩
  · obtain ⟨⟨f, hf⟩, -⟩ := hinside hy hx
    rw [hf]
    exact ⟨_, rfl, rfl, Frame.setPixel_pixel h.fb_shape hcols hf, rfl,
      encode_eq_ofNat (i := .on x y) (hx.trans_le (by omega)) (hy.trans_le (by omega))⟩
  · obtain ⟨herr, -⟩ := hyRange hy
    rw [herr]; rfl
  · obtain ⟨herr, -⟩ := hxRange hy hx
    rw [herr]; rfl

/-- Settles O28, as O27. -/
theorem offClearsExactlyThatPixel : Obligations.OffClearsExactlyThatPixel := by
  intro s x y h hready
  have hexec : exec (.off x y) s = pixelResult (Frame.clearPixel s.fb x y) (s.acceptCmd (.off x y)) := exec_of_ready nofun hready
  obtain ⟨-, hcols, -, hrows, -⟩ := h.cfg_wf
  obtain ⟨hyRange, hxRange, hinside⟩ := framePrimitivesCheckYThenX s.fb _ _ x y h.fb_shape
  rw [hexec]
  refine ⟨fun hx hy => ?_, fun hy => ?_, fun hy hx => ?_⟩
  · obtain ⟨-, ⟨f, hf⟩, -⟩ := hinside hy hx
    rw [hf]
    exact ⟨_, rfl, rfl, Frame.clearPixel_pixel h.fb_shape hcols hf, rfl,
      encode_eq_ofNat (i := .off x y) (hx.trans_le (by omega)) (hy.trans_le (by omega))⟩
  · obtain ⟨-, herr, -⟩ := hyRange hy
    rw [herr]; rfl
  · obtain ⟨-, herr, -⟩ := hxRange hy hx
    rw [herr]; rfl

/-! Whole buffers. -/

/-- Settles O30: the new buffer is `frameAt` of SRC_BASE, frame 0. -/
theorem applyLoadsTheFrameAtSrcBase : Obligations.ApplyLoadsTheFrameAtSrcBase := by
  intro s h hready
  obtain ⟨-, hcols, -⟩ := h.cfg_wf
  refine ⟨_, exec_of_ready nofun hready, rfl, frameAt_shape _ _ _ _, frameAt_canonical _ _ _ _, fun x hx y hy => ?_, rfl, rfl⟩
  have hpixel := frameAt_pixel s.cfg s.src s.srcBase 0 hcols hx hy
  rwa [Nat.zero_mul, Nat.add_zero] at hpixel

/-- Rule R35: an LED whose row is inactive is dark. -/
theorem lit_of_dark_rows {s : State} {n : Nat} (h : s.rowOut = List.replicate n false) (x y : Nat) : s.lit x y = false := by
  simp [State.lit, h]

/-- Settles O26: `ClearAll` leaves the empty frame and every output inactive. -/
theorem clearDarkensEverything : Obligations.ClearDarkensEverything := by
  intro s hready
  refine ⟨_, exec_of_ready nofun hready, rfl, fun x y => ⟨?_, ?_⟩, ?_, fun row hrow => ?_, rfl, rfl, rfl, rfl⟩
  · exact Frame.empty_pixel s.cfg.cols s.cfg.rows x y
  · exact lit_of_dark_rows rfl x y
  · exact (Frame.empty_shape s.cfg.cols s.cfg.rows).1
  · rw [List.eq_of_mem_replicate hrow]; rfl

/-- Settles O33. -/
theorem releaseStopsDrivingThePins : Obligations.ReleaseStopsDrivingThePins := fun _ hready =>
  ⟨_, exec_of_ready nofun hready, rfl, fun n => ⟨rowPin_undriven rfl n, colPin_undriven rfl n⟩, lit_undriven rfl⟩

end Sys2Proof.Machine
end

section
/-! PROOFS. A RENDER from its acceptance to its end (rules R220 to R223), the second part of it in the model's free run. -/

namespace Sys2Proof.Machine

variable {s : State}

/-! RENDER. -/

/-- The state an accepted RENDER starts its dwell from (rule R220). -/
def State.startRender (s : State) : State := { s.acceptCmd .render with op := .render, result := .pending }

theorem exec_render_of_ready (hready : s.Ready) (ht : s.now + dwell s.cfg s.brightness < timeLimit) :
    exec .render s = .next s.startRender.beginDwell :=
  (exec_of_ready (i := .render) nofun hready).trans (renderBegin_of_lt (s := s.startRender) ht)

/-- Settles O34. -/
theorem renderStartsADarkDwell : Obligations.RenderStartsADarkDwell := by
  intro s h hready ht
  refine ⟨_, exec_render_of_ready hready ht, rfl, ?_, rfl, rfl, rfl, rfl, rfl, fun x y => ?_⟩
  · exact beginDwell_drivesRow (s := s.startRender) h.fb_shape h.rowP_lt
  · exact lit_of_dark_rows rfl x y

/-! Runs. -/

theorem run_succ_of_step {M : Host.Core} {s s' : M.State} (h : M.step s = .next s') (k : Nat) : M.run (k + 1) s = M.run k s' := by
  rw [Host.Core.run, h]

theorem run_add_of_run {M : Host.Core} {s t : M.State} {j : Nat} (h : M.run j s = .next t) (k : Nat) : M.run (j + k) s = M.run k t := by
  induction j generalizing s with
  | zero => cases h; rw [Nat.zero_add]
  | succ j ih =>
    cases hs : M.step s with
    | next s' =>
      rw [run_succ_of_step hs] at h
      rw [Nat.add_right_comm, run_succ_of_step hs, ih h]
    | fault f => rw [Host.Core.run, hs] at h; cases h
    | refused e => rw [Host.Core.run, hs] at h; cases h

/-- Before the end of its wait the block has no step, unless an ABORT is latched in a tick wait (rules R262, R263). -/
theorem blockEnabled_of_waiting (habort : s.phase = .tick → s.abortReq = false) (hw : s.now < s.tWaitEnd) :
    s.blockEnabled = false := by
  have hlate : ¬s.tWaitEnd ≤ s.now := Nat.not_le.mpr hw
  cases hp : s.phase with
  | idle => simp [State.blockEnabled, State.dwellEndEnabled, State.tickEndEnabled, hp]
  | dwell => simp [State.blockEnabled, State.dwellEndEnabled, State.tickEndEnabled, hp, hlate]
  | tick => simp [State.blockEnabled, State.dwellEndEnabled, State.tickEndEnabled, hp, hlate, habort hp]

/-- One tick of the free run of a waiting block (assumption 4). -/
theorem step_of_waiting (hin : s.inputs = []) (habort : s.phase = .tick → s.abortReq = false) (hw : s.now < s.tWaitEnd)
    (hlt : s.tWaitEnd < timeLimit) : step s = .next { s with now := s.now + 1 } := by
  have hnext : s.now + 1 < timeLimit := by omega
  rw [step_of_nil hin]
  simp [freeRun, setTime, blockEnabled_of_waiting habort hw, hnext]

/-- The free run of a waiting block is the passing of time (assumption 4). -/
theorem run_of_waiting (hin : s.inputs = []) (habort : s.phase = .tick → s.abortReq = false) (hlt : s.tWaitEnd < timeLimit) {k : Nat}
    (hk : s.now + k ≤ s.tWaitEnd) : Host.Core.run Sys2Proof.core k s = .next { s with now := s.now + k } := by
  induction k with
  | zero => rfl
  | succ k ih =>
    have htick := step_of_waiting (s := { s with now := s.now + k }) hin habort hk hlt
    exact (run_add_of_run (ih (by omega)) 1).trans (run_succ_of_step (M := Sys2Proof.core) htick 0)

/-- With its dwell over, the free run's next move is the end of a RENDER (rule R262). -/
theorem step_of_render_due (hin : s.inputs = []) (hp : s.phase = .dwell) (hop : s.op = .render) (hw : s.tWaitEnd ≤ s.now) :
    step s = .next { s.renderEnd with op := .none, phase := .idle, result := .ok } := by
  have hd : s.dwellEndEnabled = true := decide_eq_true ⟨hp, hw⟩
  rw [step_of_nil hin]
  simp [freeRun, State.blockEnabled, blockStep, hd, dwellEnd, hop]

/-- A RENDER in its dwell, left to run, ends as soon as the dwell is over (rule R262, assumption 4). -/
theorem run_render (hin : s.inputs = []) (hp : s.phase = .dwell) (hop : s.op = .render) (hlt : s.tWaitEnd < timeLimit) {d : Nat}
    (hd : s.now + d = s.tWaitEnd) :
    Host.Core.run Sys2Proof.core (d + 1) s =
      .next { s.renderEnd with now := s.tWaitEnd, op := .none, phase := .idle, result := .ok } := by
  have hwait := run_of_waiting hin (fun h => by simp [hp] at h) hlt hd.le
  rw [hd] at hwait
  have hend := step_of_render_due (s := { s with now := s.tWaitEnd }) hin hp hop le_rfl
  exact (run_add_of_run hwait 1).trans (run_succ_of_step (M := Sys2Proof.core) hend 0)

/-- Rules R35, R221, R222: after both halves of a render exactly the set pixels of the rendered row are lit. -/
theorem lit_renderEnd_beginDwell (hoe : s.oe = true) (hs : Frame.HasShape s.fb s.cfg.cols s.cfg.rows) (hp : s.rowP < s.cfg.rows)
    (x y : Nat) : s.beginDwell.renderEnd.lit x y = (decide (y = s.rowP) && s.pixel x y) := by
  have hrow := renderEnd_rowOut_getD (s := s.beginDwell) rfl hp y
  have hcol : s.renderColumns.getD x false = s.pixel x s.rowP := by
    rw [List.getD_eq_getElem?_getD, renderColumns_getElem? hs hp]
    split
    · rfl
    · next hx => exact (Frame.pixel_of_ge hs (.inl (Nat.le_of_not_lt hx))).symm
  rw [State.lit, hrow, renderEnd_colOut, beginDwell_colOut, hcol, renderEnd_oe, beginDwell_oe, hoe, beginDwell_rowP, Bool.true_and]
  by_cases hy : y = s.rowP
  · rw [hy]
  · simp [hy]

/-- Only an inert block drives no pin (rule R33). -/
theorem State.Inv.oe_of_ready (h : s.Inv) (hready : s.Ready) : s.oe = true := by
  obtain ⟨-, hinert, -⟩ := hready
  by_contra hoe
  exact absurd (hinert.symm.trans (h.oe_iff.mp (Bool.eq_false_of_not_eq_true hoe))) nofun

/-- Settles O36: `d` ticks of waiting, and then the block's `DwellEnd`. -/
theorem renderShowsExactlyItsRow : Obligations.RenderShowsExactlyItsRow := by
  rintro s d h hready hin rfl hd
  obtain ⟨hfault, hinert, -⟩ := id hready
  have hrun := run_render (s := s.startRender.beginDwell) hin rfl rfl hd rfl
  refine ⟨_, _, exec_render_of_ready hready hd, hrun, ⟨hfault, hinert, rfl⟩, rfl, rfl, rfl, rfl, ?_⟩
  exact lit_renderEnd_beginDwell (s := s.startRender) (h.oe_of_ready hready) h.fb_shape h.rowP_lt

end Sys2Proof.Machine
end

section
/-! PROOFS. The block's own steps (rules R258 to R263): what each branch of `DwellEnd` and `TickEnd` leaves, when it is the block's move. -/

namespace Sys2Proof.Machine

variable {s : State}

/-! The branches. -/

theorem dwellEnd_of_render (hop : s.op = .render) :
    dwellEnd s = .next { s.renderEnd with op := .none, phase := .idle, result := .ok } := if_pos hop

theorem dwellEnd_of_long (hop : s.op ≠ .render) (ht : s.now + s.cfg.refreshTick < timeLimit) :
    dwellEnd s = .next { s.renderEnd with tWaitEnd := s.now + s.cfg.refreshTick, phase := .tick } :=
  (if_neg hop).trans (if_neg (Nat.not_le.mpr ht))

theorem animateIter_of_early (hdue : s.now < s.an.next) : animateIter s = renderBegin s := by
  simp [animateIter, animPoll, hdue]

theorem animateIter_of_due (hdue : s.an.next ≤ s.now) (hleft : s.an.index < s.an.length) :
    animateIter s = renderBegin { s.applyFrame (animCurrent s.cfg s.src s.an) with an := animAdvance s.cfg s.an } := by
  simp [animateIter, animPoll, Nat.not_lt.mpr hdue, hleft]

theorem animateIter_of_done (hdue : s.an.next ≤ s.now) (hlen : s.an.length ≤ s.an.index) : animateIter s = .next s.finish := by
  simp [animateIter, animPoll_done s.src hdue hlen]

theorem tickEnd_of_abort (habort : s.abortReq = true) : tickEnd s = .next s.abandon := if_pos habort

theorem tickEnd_of_display_over (habort : s.abortReq = false) (hop : s.op = .display) (hover : s.dispDeadline ≤ s.now) :
    tickEnd s = .next s.finish := by
  simp [tickEnd, habort, hop, hover]

theorem tickEnd_of_display (habort : s.abortReq = false) (hop : s.op = .display) (hearly : s.now < s.dispDeadline) :
    tickEnd s = renderBegin s := by
  simp [tickEnd, habort, hop, Nat.not_le.mpr hearly]

theorem tickEnd_of_animate (habort : s.abortReq = false) (hop : s.op = .animate) : tickEnd s = animateIter s := by
  simp [tickEnd, habort, hop]

/-! The block's move: its turn, or the free run (assumption 4). -/

theorem step_of_block_move {rest : List Input} (hin : s.inputs = .blockTurn :: rest ∨ (s.inputs = [] ∧ rest = []))
    (hen : s.blockEnabled = true) : step s = blockStep { s with inputs := rest } := by
  obtain hturn | ⟨hnil, rfl⟩ := hin
  · exact step_of_inputs hturn
  · rw [step_of_nil hnil, freeRun, if_pos hen, ← hnil]

theorem step_of_dwell_over {rest : List Input} (hin : s.inputs = .blockTurn :: rest ∨ (s.inputs = [] ∧ rest = []))
    (hp : s.phase = .dwell) (hw : s.tWaitEnd ≤ s.now) : step s = dwellEnd { s with inputs := rest } := by
  have hen : s.dwellEndEnabled = true := decide_eq_true ⟨hp, hw⟩
  rw [step_of_block_move hin (by rw [State.blockEnabled, hen, Bool.true_or])]
  exact if_pos hen

theorem step_of_tick_over {rest : List Input} (hin : s.inputs = .blockTurn :: rest ∨ (s.inputs = [] ∧ rest = []))
    (hp : s.phase = .tick) (hw : s.abortReq = true ∨ s.tWaitEnd ≤ s.now) : step s = tickEnd { s with inputs := rest } := by
  have hen : s.tickEndEnabled = true := decide_eq_true ⟨hp, hw⟩
  have hdwell : s.dwellEndEnabled ≠ true := by simp [State.dwellEndEnabled, hp]
  rw [step_of_block_move hin (by rw [State.blockEnabled, hen, Bool.or_true])]
  exact (if_neg hdwell).trans (if_pos hen)

/-- An operation in progress is neither FAULTED nor INERT (rule R298). -/
theorem State.Inv.running_of_busy (h : s.Inv) (hb : s.Busy) : s.fault = false ∧ s.inert = false :=
  ⟨Bool.eq_false_of_not_eq_true fun hf => hb (h.fault_idle hf), Bool.eq_false_of_not_eq_true fun hi => hb (h.inert_idle hi)⟩

/-- Settles O35: the two branches of `DwellEnd`, over the common second half of a render. -/
theorem dwellEndActivatesTheRow : Obligations.DwellEndActivatesTheRow := by
  intro s rest h hin hp hw hlimit
  have hbusy : s.Busy := fun hop => by simp [h.idle_iff.mp hop] at hp
  obtain ⟨hfault, hinert⟩ := h.running_of_busy hbusy
  have hrow (y : Nat) : s.renderEnd.rowOut.getD y false = decide (y = s.rowP) :=
    renderEnd_rowOut_getD (h.dwell_dark hp) h.rowP_lt y
  have hlength : s.renderEnd.rowOut.length = s.cfg.rows := List.length_set.trans h.rowOut_length
  have hnext : s.renderEnd.rowP = if s.rowP + 1 = s.cfg.rows then 0 else s.rowP + 1 := succ_mod_eq_ite h.rowP_lt
  rw [step_of_dwell_over (.inl hin) hp hw]
  by_cases hop : s.op = .render
  · exact ⟨_, dwellEnd_of_render hop, rfl, hlength, hrow, hnext,
      fun _ => ⟨⟨hfault, hinert, rfl⟩, rfl, rfl, rfl⟩, fun hne => absurd hop hne⟩
  · exact ⟨_, dwellEnd_of_long hop (hlimit.resolve_left hop), rfl, hlength, hrow, hnext, fun heq => absurd heq hop,
      fun _ => ⟨rfl, rfl, rfl, rfl⟩⟩

/-- Rule R260: `Finish` darkens the block and ends the operation, its latch already clear. -/
theorem finish_eq_of_not_aborted (habort : s.abortReq = false) :
    s.finish = { s.clearAll with op := .none, phase := .idle, result := .ok } := by
  simp [State.finish, State.endOp, habort]

/-- Settles O45: ABORT, the deadline, and the next render are the branches of `TickEnd` for a DISPLAY. -/
theorem displayTickEndsInOneOfThreeWays : Obligations.DisplayTickEndsInOneOfThreeWays := by
  intro s rest h hin hp hop ht
  refine ⟨fun habort => ?_, fun habort hw hover => ?_, fun habort hw hearly => ?_⟩
  · exact (step_of_tick_over hin hp (.inl habort)).trans (tickEnd_of_abort habort)
  · refine ⟨_, (step_of_tick_over hin hp (.inr hw)).trans (tickEnd_of_display_over habort hop hover), ⟨rfl, rfl, rfl⟩, ?_⟩
    exact finish_eq_of_not_aborted habort
  · have htick := (step_of_tick_over hin hp (.inr hw)).trans (tickEnd_of_display habort hop hearly)
    exact ⟨_, htick.trans (renderBegin_of_lt ht), beginDwell_drivesRow h.fb_shape h.rowP_lt, rfl⟩

/-- The registers an Apply event may change (rule R192). -/
theorem animAdvance_eq (c : Config) (a : Anim) :
    animAdvance c a =
      { a with
        sequence := (animAdvance c a).sequence, frameIndex := (animAdvance c a).frameIndex, index := (animAdvance c a).index,
        next := (animAdvance c a).next } := by
  unfold animAdvance
  cases a.effect with
  | none => rfl
  | slide => dsimp only; split <;> rfl

/-- Settles O46: ABORT, and the three answers of a poll. -/
theorem animationTickEndsInOneOfFourWays : Obligations.AnimationTickEndsInOneOfFourWays := by
  intro s rest h hin hp hop ht
  have hpoll (habort : s.abortReq = false) (hw : s.tWaitEnd ≤ s.now) : step s = animateIter { s with inputs := rest } :=
    (step_of_tick_over hin hp (.inr hw)).trans (tickEnd_of_animate habort hop)
  refine ⟨fun habort => ?_, fun habort hw hearly => ?_, fun habort hw hdue hleft => ?_, fun habort hw hdue hlast => ?_⟩
  · exact (step_of_tick_over hin hp (.inl habort)).trans (tickEnd_of_abort habort)
  · have hwait := (hpoll habort hw).trans (animateIter_of_early hearly)
    exact ⟨_, hwait.trans (renderBegin_of_lt ht), beginDwell_drivesRow h.fb_shape h.rowP_lt, rfl⟩
  · obtain ⟨-, -, -, -, -, -, hindex, hnext⟩ := animAdvance_spec s.cfg s.an
    have happly := (hpoll habort hw).trans (animateIter_of_due hdue hleft)
    refine ⟨_, happly.trans (renderBegin_of_lt ht), ?_, beginDwell_drivesRow (animCurrent_shape _ _ _) h.rowP_lt, hindex, hnext, ?_⟩
    · exact (h.an_running hop).animCurrent_eq_eventFrame h.cfg_wf s.src
    · simp only [beginDwell_an, ← animAdvance_eq]
      rfl
  · refine ⟨_, (hpoll habort hw).trans (animateIter_of_done hdue hlast.ge), ⟨rfl, rfl, rfl⟩, ?_⟩
    exact finish_eq_of_not_aborted habort

/-- Settles O47: ABORT is accepted, and its body sets the latch alone. -/
theorem abortIsLatched : Obligations.AbortIsLatched := fun _ hfault hinert hop =>
  exec_accepted (i := .abort) (gate_abort_eq_none_iff.mpr ⟨hfault, hinert, hop⟩)

end Sys2Proof.Machine
end

section
/-! PROOFS. The long operations at their acceptance (rules R242 to R254): the state from which a DISPLAY or an animation begins its first
render. -/

namespace Sys2Proof.Machine

variable {s : State}

/-! DISPLAY. -/

/-- Rule R45: DURATION as the number of its two words. -/
theorem State.duration_eq (s : State) : s.duration = s.durationHi.toNat * 2 ^ 32 + s.durationLo.toNat := toNat_append_eq _ _

/-- The state an accepted DISPLAY starts its first render from (rule R242). -/
def State.startDisplay (s : State) : State :=
  { (s.acceptCmd .display).applyFrame (frameAt s.cfg s.src s.srcBase 0) with
    dispDeadline := s.now + s.duration, op := .display, abortReq := false, result := .pending }

theorem exec_display_of_ready (hready : s.Ready) (hd : s.now + s.duration < timeLimit)
    (ht : s.now + dwell s.cfg s.brightness < timeLimit) : exec .display s = .next s.startDisplay.beginDwell := by
  have hbody : commandBody .display (s.acceptCmd .display) = renderBegin s.startDisplay := if_neg (Nat.not_le.mpr hd)
  exact (exec_of_ready (i := .display) nofun hready).trans (hbody.trans (renderBegin_of_lt ht))

/-- Settles O41: the render of `startDisplay` drives a row of the frame at SRC_BASE. -/
theorem displayAppliesAndStartsRendering : Obligations.DisplayAppliesAndStartsRendering := by
  intro s duration h hready hduration hd ht
  obtain ⟨-, hcols, -⟩ := h.cfg_wf
  rw [← s.duration_eq] at hduration
  subst hduration
  have hshape : Frame.HasShape s.startDisplay.fb s.cfg.cols s.cfg.rows := frameAt_shape _ _ _ _
  refine ⟨_, exec_display_of_ready hready hd ht, rfl, hshape, fun x hx y hy => ?_, beginDwell_drivesRow hshape h.rowP_lt, rfl, rfl,
    rfl, rfl, rfl, rfl, rfl⟩
  have hpixel := frameAt_pixel s.cfg s.src s.srcBase 0 hcols hx hy
  rwa [Nat.zero_mul, Nat.add_zero] at hpixel

/-! The animate commands. -/

variable {i : Instr} {kind : Kind} {e : Effect} {d : Nat}

/-- The operands the statements name are those of the command itself; its acceptance does not touch them (rules R246 to R252). -/
theorem animates_of_call (h : animateCall s i = some (kind, e, d)) : Animates (s.acceptCmd i) i kind e d := by
  cases i <;> cases h
  case scroll => exact .scroll
  case scrollSpeed => rw [← s.duration_eq]; exact .scrollSpeed
  case animate => rw [← s.duration_eq]; exact .animate e
  case animateFrames => rw [← s.duration_eq]; exact .animateFrames e

theorem commandBody_of_animates (h : Animates s i kind e d) : commandBody i s = startAnimate kind e d s := by
  cases h <;> rfl

/-- The registers of an animation of the source the host has named, constructed now (rules R186, R254). -/
def State.newAnim (s : State) (kind : Kind) (e : Effect) (d : Nat) : Anim :=
  animStart s.now kind s.srcBase s.srcLen e (stepsOf s.cfg e s.srcLen.toNat) (d / stepsOf s.cfg e s.srcLen.toNat)

/-- The state an accepted animate command starts its first render from: the first event has been applied (rules R254, R258). -/
def State.startAnimation (s : State) (i : Instr) (kind : Kind) (e : Effect) (d : Nat) : State :=
  { (s.acceptCmd i).applyFrame (animCurrent s.cfg s.src (s.newAnim kind e d)) with
    an := animAdvance s.cfg (s.newAnim kind e d), op := .animate, abortReq := false, result := .pending }

theorem startAnimation_an (s : State) (i : Instr) (kind : Kind) (e : Effect) (d : Nat) :
    (s.startAnimation i kind e d).an.kind = kind ∧ (s.startAnimation i kind e d).an.base = s.srcBase ∧
      (s.startAnimation i kind e d).an.n = s.srcLen ∧ (s.startAnimation i kind e d).an.effect = e ∧
      (s.startAnimation i kind e d).an.length = stepsOf s.cfg e s.srcLen.toNat ∧
      (s.startAnimation i kind e d).an.wait = d / stepsOf s.cfg e s.srcLen.toNat ∧ (s.startAnimation i kind e d).an.index = 1 ∧
      (s.startAnimation i kind e d).an.next = s.now + d / stepsOf s.cfg e s.srcLen.toNat :=
  animAdvance_spec s.cfg (s.newAnim kind e d)

theorem animNew_of_timely (hc : s.cfg.WellFormed) (hn : s.srcLen.toNat ≠ 0) (hd : stepsOf s.cfg e s.srcLen.toNat ≤ d)
    (hlimit : s.now + d < timeLimit) : animNew s.cfg s.now kind s.srcBase s.srcLen e d = .ok (s.newAnim kind e d) := by
  obtain ⟨hcols, -⟩ := hc
  rw [animNew_eq_ite hcols, if_neg (not_or.mpr ⟨hn, Nat.not_lt.mpr hd⟩)]
  exact if_neg (Nat.not_le.mpr hlimit)

/-- A source that is not empty has a step (rule R182). -/
theorem stepsOf_pos (hc : s.cfg.WellFormed) (hn : s.srcLen.toNat ≠ 0) : 0 < stepsOf s.cfg e s.srcLen.toNat := by
  obtain ⟨hcols, -⟩ := hc
  exact Nat.pos_of_ne_zero (mt (stepsOf_eq_zero_iff hcols e _).mp hn)

/-- A timely animate command constructs its animation and applies the first event in its acceptance step (rules R254, R258). -/
theorem exec_animate_of_ready (hready : s.Ready) (hc : s.cfg.WellFormed) (hcall : animateCall s i = some (kind, e, d))
    (hn : s.srcLen.toNat ≠ 0) (hd : stepsOf s.cfg e s.srcLen.toNat ≤ d) (hlimit : s.now + d < timeLimit)
    (ht : s.now + dwell s.cfg s.brightness < timeLimit) : exec i s = .next (s.startAnimation i kind e d).beginDwell := by
  have hcmd := animates_of_call hcall
  have hnew := animNew_of_timely (kind := kind) hc hn hd hlimit
  calc exec i s
    _ = startAnimate kind e d (s.acceptCmd i) := (exec_of_ready hcmd.ne_abort hready).trans (commandBody_of_animates hcmd)
    _ = animateIter { s.acceptCmd i with an := s.newAnim kind e d, op := .animate, abortReq := false, result := .pending } := by
      simp [startAnimate, hnew]
    _ = renderBegin (s.startAnimation i kind e d) := animateIter_of_due le_rfl (stepsOf_pos hc hn)
    _ = .next (s.startAnimation i kind e d).beginDwell := renderBegin_of_lt ht

/-- Settles O43: the frame applied is that of shift 0 and source element 0, and the registers are those after one event. -/
theorem animateAppliesTheFirstFrame : Obligations.AnimateAppliesTheFirstFrame := by
  intro s i kind e d h hready hcall hn hd hlimit ht
  have hshape : Frame.HasShape (s.startAnimation i kind e d).fb s.cfg.cols s.cfg.rows := animCurrent_shape _ _ _
  have hframe : (s.startAnimation i kind e d).fb = srcFrame s.cfg s.src kind s.srcBase 0 :=
    animCurrent_of_sequence_zero h.cfg_wf s.src rfl
  obtain ⟨hpos, hcols, -⟩ := h.cfg_wf
  obtain ⟨hkind, hbase, hsource, heff, hlen, hwait, hidx, hnext⟩ := startAnimation_an s i kind e d
  obtain ⟨hnew, -⟩ := animNew_running (animNew_of_timely (kind := kind) h.cfg_wf hn hd hlimit) hpos hcols
  have hrun : (s.startAnimation i kind e d).an.Running s.cfg := hnew.advance (stepsOf_pos h.cfg_wf hn) hpos
  refine ⟨_, exec_animate_of_ready hready h.cfg_wf hcall hn hd hlimit ht, rfl, hshape,
    fun x _ y _ => congrArg (Frame.pixel · x y) hframe, beginDwell_drivesRow hshape h.rowP_lt, rfl, rfl, rfl, rfl, rfl, rfl,
    hkind, heff, hbase, hsource, hidx, hlen, hwait, hnext, ?_, ?_⟩
  · intro he
    obtain ⟨hfi, hseq⟩ := hrun.slide_divMod (heff.trans he)
    rw [hidx] at hfi hseq
    exact ⟨hseq, hfi⟩
  · intro he
    obtain ⟨hseq, hfi⟩ := hrun.none_progress (heff.trans he)
    exact ⟨hseq, hfi.symm.trans hidx⟩

end Sys2Proof.Machine
end

section
/-! PROOFS. The long operations in the model's free run (assumption 4): one period is a dwell, `DwellEnd`, a tick wait and `TickEnd` (rules
R262, R263, R264), so a run is an induction on its periods. -/

namespace Sys2Proof.Machine

variable {s : State}

/-! Single steps of the free run. -/

theorem run_succ_of_run {M : Host.Core} {s t : M.State} {j : Nat} (h : M.run j s = .next t) : M.run (j + 1) s = M.step t := by
  rw [run_add_of_run h, Host.Core.run]
  cases M.step t <;> rfl

theorem free_step_of_dwell_over (hin : s.inputs = []) (hp : s.phase = .dwell) (hw : s.tWaitEnd ≤ s.now) : step s = dwellEnd s := by
  have hstep := step_of_dwell_over (.inr ⟨hin, rfl⟩) hp hw
  rwa [← hin] at hstep

theorem free_step_of_tick_over (hin : s.inputs = []) (hp : s.phase = .tick) (hw : s.abortReq = true ∨ s.tWaitEnd ≤ s.now) :
    step s = tickEnd s := by
  have hstep := step_of_tick_over (.inr ⟨hin, rfl⟩) hp hw
  rwa [← hin] at hstep

/-- The free run of a block that waits, or whose wait is over already, up to the end of the wait. -/
theorem run_until_due (hin : s.inputs = []) (habort : s.phase = .tick → s.abortReq = false) (hlt : s.tWaitEnd < timeLimit) :
    Host.Core.run Sys2Proof.core (s.tWaitEnd - s.now) s = .next { s with now := max s.now s.tWaitEnd } := by
  obtain hlate | hearly := Nat.le_total s.tWaitEnd s.now
  · rw [Nat.sub_eq_zero_of_le hlate, Nat.max_eq_left hlate]
    rfl
  · have hdue : s.now + (s.tWaitEnd - s.now) = s.tWaitEnd := Nat.add_sub_cancel' hearly
    rw [run_of_waiting hin habort hlt hdue.le, hdue, Nat.max_eq_right hearly]

/-- A long operation at the start of the tick wait that follows its present dwell (rule R262). -/
def State.tickWait (s : State) : State :=
  { s.renderEnd with
    now := max s.now s.tWaitEnd, tWaitEnd := max s.now s.tWaitEnd + s.cfg.refreshTick, phase := .tick }

theorem run_dwell (hin : s.inputs = []) (hp : s.phase = .dwell) (hop : s.op ≠ .render) (hlt : s.tWaitEnd < timeLimit)
    (ht : max s.now s.tWaitEnd + s.cfg.refreshTick < timeLimit) :
    Host.Core.run Sys2Proof.core (s.tWaitEnd - s.now + 1) s = .next s.tickWait := by
  have hwait := run_until_due hin (fun h => by simp [hp] at h) hlt
  have hdue := free_step_of_dwell_over (s := { s with now := max s.now s.tWaitEnd }) hin hp (Nat.le_max_right ..)
  exact (run_succ_of_run hwait).trans (hdue.trans (dwellEnd_of_long hop ht))

/-! ABORT. -/

/-- Settles O48: in a tick wait the next step abandons the operation, and a dwell is first run to its end. -/
theorem latchedAbortEndsTheOperation : Obligations.LatchedAbortEndsTheOperation := by
  intro s h habort hin hnow hwait
  have hbusy : s.Busy := fun hop => by simpa [hop] using h.abort_long habort
  obtain ⟨hfault, hinert⟩ := h.running_of_busy hbusy
  have hend {u : State} (hu : u.inputs = []) (hp : u.phase = .tick) (ha : u.abortReq = true) : step u = .next u.abandon :=
    (free_step_of_tick_over hu hp (.inl ha)).trans (tickEnd_of_abort ha)
  cases hp : s.phase with
  | idle => exact absurd (h.idle_iff.mpr hp) hbusy
  | tick =>
    have hrun := (run_succ_of_run (M := Sys2Proof.core) (j := 0) (s := s) rfl).trans (hend hin hp habort)
    exact ⟨1, _, by omega, hrun, ⟨hfault, hinert, rfl⟩, rfl, rfl, rfl, rfl⟩
  | dwell =>
    have hop : s.op ≠ .render := fun hop => by simpa [hop] using h.abort_long habort
    have hdwell := run_dwell hin hp hop h.tWaitEnd_lt (by simp only [timeLimit]; omega)
    have hrun := (run_succ_of_run hdwell).trans (hend hin rfl habort)
    exact ⟨s.tWaitEnd - s.now + 1 + 1, _, le_rfl, hrun, ⟨hfault, hinert, rfl⟩, rfl, rfl, rfl, rfl⟩

/-! Periods. -/

/-- The length of a period: the dwell of the present brightness and one refresh tick (rule R264). -/
def State.period (s : State) : Nat := dwell s.cfg s.brightness + s.cfg.refreshTick

/-- A long operation at the start of a dwell, with no move pending and no ABORT latched. -/
structure State.Renders (s : State) : Prop where
  no_inputs : s.inputs = []
  in_dwell : s.phase = .dwell
  long : s.op ≠ .render
  not_aborted : s.abortReq = false
  dwell_end : s.tWaitEnd = s.now + dwell s.cfg s.brightness

/-- The long operation one period later, its tick wait just over. -/
def State.periodEnd (s : State) : State :=
  { s.renderEnd with now := s.now + s.period, tWaitEnd := s.now + s.period, phase := .tick }

/-- The next render of a long operation, of a buffer `f` and with animation registers `a`. -/
def State.nextRender (s : State) (f : Frame) (a : Anim) : State := { s.periodEnd with fb := f, an := a }.beginDwell

/-- The long operation finished `n` periods later, its animation registers `a` then (rules R260, R265, R266). -/
def State.finishedAfter (s : State) (n : Nat) (a : Anim) : State :=
  { s.finish with
    now := s.now + n * s.period, tWaitEnd := s.now + n * s.period, rowP := (s.rowP + n) % s.cfg.rows, an := a }

theorem State.Renders.nextRender (h : s.Renders) (f : Frame) (a : Anim) : (s.nextRender f a).Renders :=
  ⟨h.no_inputs, rfl, h.long, h.not_aborted, rfl⟩

/-- One period of the free run: what is left of it is `TickEnd`. -/
theorem State.Renders.run_period (h : s.Renders) (ht : s.now + s.period < timeLimit) :
    Host.Core.run Sys2Proof.core (s.period + 2) s = tickEnd s.periodEnd := by
  have hdwell_end := h.dwell_end
  have hmax : max s.now s.tWaitEnd = s.now + dwell s.cfg s.brightness := by omega
  have hlimit : max s.now s.tWaitEnd + s.cfg.refreshTick < timeLimit := by rwa [hmax, Nat.add_assoc]
  have hdwell := run_dwell h.no_inputs h.in_dwell h.long (by omega) hlimit
  have hwait := run_of_waiting (s := s.tickWait) h.no_inputs (fun _ => h.not_aborted) hlimit le_rfl
  have hover : { s.tickWait with now := s.tickWait.now + s.cfg.refreshTick } = s.periodEnd := by
    simp only [State.tickWait, State.periodEnd, State.period, hmax, Nat.add_assoc]
  have hsteps : s.period + 2 = s.tWaitEnd - s.now + 1 + (s.cfg.refreshTick + 1) := by rw [State.period]; omega
  rw [hsteps, run_add_of_run hdwell, run_succ_of_run hwait, hover]
  exact free_step_of_tick_over h.no_inputs rfl (.inr le_rfl)

theorem finishedAfter_one (s : State) : s.periodEnd.finish = s.finishedAfter 1 s.an := by
  rw [State.finishedAfter, Nat.one_mul]
  rfl

theorem finishedAfter_nextRender (s : State) (f : Frame) (a a' : Anim) (n : Nat) :
    (s.nextRender f a).finishedAfter n a' = s.finishedAfter (n + 1) a' := by
  have hnow : s.now + (n + 1) * s.period = s.now + s.period + n * s.period := by rw [Nat.succ_mul]; omega
  have hrow : (s.rowP + (n + 1)) % s.cfg.rows = ((s.rowP + 1) % s.cfg.rows + n) % s.cfg.rows := by
    rw [Nat.mod_add_mod, Nat.add_assoc, Nat.add_comm 1]
  simp only [State.finishedAfter, hnow, hrow]
  rfl

theorem State.Renders.run_last_period (h : s.Renders) (ht : s.now + s.period < timeLimit)
    (hend : tickEnd s.periodEnd = .next s.periodEnd.finish) :
    Host.Core.run Sys2Proof.core (1 * (s.period + 2)) s = .next (s.finishedAfter 1 s.an) := by
  rw [Nat.one_mul, ← finishedAfter_one]
  exact (h.run_period ht).trans hend

/-- A period that another render follows, of a buffer `f` and with animation registers `a`. -/
theorem State.Renders.run_next_period (h : s.Renders) {f : Frame} {a : Anim}
    (hend : tickEnd s.periodEnd = renderBegin { s.periodEnd with fb := f, an := a }) (ht : s.now + s.period + s.period < timeLimit)
    (n : Nat) :
    Host.Core.run Sys2Proof.core ((n + 1) * (s.period + 2)) s = Host.Core.run Sys2Proof.core (n * (s.period + 2)) (s.nextRender f a) := by
  have hdwell : s.now + s.period + dwell s.cfg s.brightness < timeLimit :=
    (Nat.add_le_add_left (Nat.le_add_right ..) _).trans_lt ht
  have hrun := (h.run_period (by omega)).trans (hend.trans (renderBegin_of_lt hdwell))
  rw [Nat.succ_mul, Nat.add_comm]
  exact run_add_of_run hrun _

end Sys2Proof.Machine
end

section
/-! PROOFS. How long a DISPLAY and an animation run (rules R242, R264 to R266): the number of periods is the least one that reaches the
deadline and, for an animation, gives each event a poll of its own and `Done` one more. -/

namespace Sys2Proof.Machine

variable {s : State}

/-- A quotient rounded up is the least number of periods that reaches `a`. -/
theorem ceil_div_le_iff {p : Nat} (hp : 0 < p) (a m : Nat) : (a + p - 1) / p ≤ m ↔ a ≤ m * p := by
  rw [← Nat.ceilDiv_eq_add_pred_div, ceilDiv_le_iff_le_mul hp, Nat.mul_comm]

theorem period_pos (hc : s.cfg.WellFormed) : 0 < s.period := by
  obtain ⟨-, -, -, -, htick, -⟩ := hc
  exact Nat.add_pos_right _ htick

/-! DISPLAY. -/

/-- A DISPLAY left to run finishes after the least number of periods, at least one, that reaches its deadline (rules R242, R265). -/
theorem run_display {n : Nat} (h : s.Renders) (hop : s.op = .display)
    (hn : ∀ m, n ≤ m ↔ 1 ≤ m ∧ s.dispDeadline ≤ s.now + m * s.period) (ht : s.now + n * s.period < timeLimit) :
    Host.Core.run Sys2Proof.core (n * (s.period + 2)) s = .next (s.finishedAfter n s.an) := by
  induction n generalizing s with
  | zero => exact absurd ((hn 0).mp le_rfl).1 nofun
  | succ n ih =>
    rw [Nat.succ_mul] at ht
    by_cases hover : s.dispDeadline ≤ s.now + s.period
    · obtain rfl : n = 0 := by
        have := (hn 1).mpr ⟨le_rfl, by rwa [Nat.one_mul]⟩
        omega
      exact h.run_last_period (by omega) (tickEnd_of_display_over (s := s.periodEnd) h.not_aborted hop hover)
    · have hmore (m : Nat) : n ≤ m ↔ 1 ≤ m ∧ s.dispDeadline ≤ s.now + s.period + m * s.period := by
        have := hn (m + 1)
        rw [Nat.succ_mul] at this
        rcases Nat.eq_zero_or_pos m with rfl | hm <;> omega
      have hleft : s.period ≤ n * s.period := Nat.le_mul_of_pos_left _ (by have := hmore 0; omega)
      have hend := tickEnd_of_display (s := s.periodEnd) h.not_aborted hop (Nat.lt_of_not_le hover)
      rw [h.run_next_period hend (by omega), ← finishedAfter_nextRender]
      refine ih (h.nextRender s.fb s.an) hop hmore ?_
      change s.now + s.period + n * s.period < timeLimit
      omega

/-- Rule R266: a finished operation leaves the block dark, with no row active. -/
theorem finishedAfter_dark (s : State) (n : Nat) (a : Anim) : (s.finishedAfter n a).Dark := ⟨rfl, rfl, rfl⟩

/-- Settles O49: `run_display` from the first render on. -/
theorem displayRunsForItsDuration : Obligations.DisplayRunsForItsDuration := by
  intro s duration p n h hready hin hduration hp hn ht
  obtain ⟨hfault, hinert, -⟩ := id hready
  rw [← s.duration_eq] at hduration
  change p = s.period at hp
  subst hduration hp
  have hleast (m : Nat) : n ≤ m ↔ 1 ≤ m ∧ s.now + s.duration ≤ s.now + m * s.period := by
    rw [hn, Nat.max_le, ceil_div_le_iff (period_pos h.cfg_wf), Nat.add_le_add_iff_left]
  have hstart : s.startDisplay.beginDwell.Renders := ⟨hin, rfl, nofun, rfl, rfl⟩
  obtain ⟨hone, hreach⟩ := (hleast n).mp le_rfl
  have hperiod : s.period ≤ n * s.period := Nat.le_mul_of_pos_left _ hone
  have hdwell : dwell s.cfg s.brightness ≤ s.period := Nat.le_add_right ..
  have hexec := exec_display_of_ready hready (hreach.trans_lt ht) (by simp only [timeLimit]; omega)
  exact ⟨_, _, hexec, run_display hstart rfl hleast ht, ⟨hfault, hinert, rfl⟩, rfl, finishedAfter_dark _ _ _, rfl, rfl, rfl, rfl, rfl,
    rfl, rfl, lit_of_dark_rows rfl⟩

/-! The animations. -/

/-- With `p` ticks from now to the next poll and between polls, the poll that answers `Done` is the `n`-th from now: `n` is the least number
of polls that reaches the last deadline and gives each event left a poll of its own, and `Done` one more. The events keep pace either with
the polls or with their own interval, whichever is longer (rules R195, R265). -/
structure Anim.DoneAtPoll (a : Anim) (now p n : Nat) : Prop where
  least : ∀ m, n ≤ m ↔ a.length - a.index + 1 ≤ m ∧ a.next + (a.length - a.index) * a.wait ≤ now + m * p
  pace : (a.wait ≤ p ∧ a.next ≤ now + p) ∨ (p ≤ a.wait ∧ now < a.next)

variable {a : Anim} {now p n : Nat}

theorem Anim.DoneAtPoll.pos (h : a.DoneAtPoll now p n) : 0 < n := by
  obtain ⟨hevents, -⟩ := (h.least n).mp le_rfl
  omega

/-- With no event left, the first poll at or after the last deadline is the one that answers `Done`. -/
theorem Anim.DoneAtPoll.last (h : a.DoneAtPoll now p n) (hdue : a.next ≤ now + p) (hlen : a.length ≤ a.index) : n = 1 := by
  have hone := (h.least 1).mpr (by rw [Nat.sub_eq_zero_of_le hlen]; omega)
  exact Nat.le_antisymm hone h.pos

/-- A poll that applies an event uses up one poll and one event. -/
theorem Anim.DoneAtPoll.animAdvance (h : a.DoneAtPoll now p (n + 1)) (c : Config) (hdue : a.next ≤ now + p) (hleft : a.index < a.length) :
    (animAdvance c a).DoneAtPoll (now + p) p n := by
  obtain ⟨-, -, -, -, hlen, hwait, hidx, hnext⟩ := animAdvance_spec c a
  have hsplit : a.length - a.index = a.length - (a.index + 1) + 1 := by omega
  refine ⟨fun m => ?_, ?_⟩
  · have hm := h.least (m + 1)
    rw [hsplit, Nat.succ_mul, Nat.succ_mul] at hm
    rw [hlen, hwait, hidx, hnext]
    omega
  · have hpace := h.pace
    rw [hwait, hnext]
    omega

/-- A poll before the deadline uses up one poll; the events, no closer than the polls, still get one each. -/
theorem Anim.DoneAtPoll.wait (h : a.DoneAtPoll now p (n + 1)) (hearly : now + p < a.next) : a.DoneAtPoll (now + p) p n := by
  obtain ⟨hpace, -⟩ : p ≤ a.wait ∧ now < a.next := h.pace.resolve_left (by omega)
  have hspace : (a.length - a.index) * p ≤ (a.length - a.index) * a.wait := Nat.mul_le_mul_left _ hpace
  refine ⟨fun m => ?_, .inr ⟨hpace, hearly⟩⟩
  have hm := h.least (m + 1)
  rw [Nat.succ_mul] at hm
  have hroom (hreach : a.next + (a.length - a.index) * a.wait ≤ now + p + m * p) : a.length - a.index + 1 ≤ m := by
    by_contra hfew
    have : m * p ≤ (a.length - a.index) * p := Nat.mul_le_mul_right _ (by omega)
    omega
  omega

/-- An animation left to run applies all its events and finishes at the poll that answers `Done` (rules R194, R265). -/
theorem run_animation (h : s.Renders) (hop : s.op = .animate) (hn : s.an.DoneAtPoll s.now s.period n)
    (ht : s.now + n * s.period < timeLimit) :
    Host.Core.run Sys2Proof.core (n * (s.period + 2)) s =
      .next (s.finishedAfter n (s.an.afterEvents s.cfg (s.an.length - s.an.index))) := by
  induction n generalizing s with
  | zero => exact absurd hn.pos nofun
  | succ n ih =>
    have htick : tickEnd s.periodEnd = animateIter s.periodEnd := tickEnd_of_animate h.not_aborted hop
    have hlimit : s.now + s.period + n * s.period < timeLimit := by rw [Nat.succ_mul] at ht; omega
    by_cases hdue : s.an.next ≤ s.now + s.period
    · by_cases hleft : s.an.index < s.an.length
      · have hrest := hn.animAdvance s.cfg hdue hleft
        have hperiod : s.period ≤ n * s.period := Nat.le_mul_of_pos_left _ hrest.pos
        have hend := htick.trans (animateIter_of_due (s := s.periodEnd) hdue hleft)
        obtain ⟨-, -, -, -, hlen, -, hidx, -⟩ := animAdvance_spec s.cfg s.an
        have hevents : s.an.length - s.an.index = (animAdvance s.cfg s.an).length - (animAdvance s.cfg s.an).index + 1 := by omega
        rw [h.run_next_period hend (by omega), hevents, ← Anim.afterEvents_animAdvance, ← finishedAfter_nextRender]
        exact ih (h.nextRender _ _) hop hrest hlimit
      · obtain rfl : n = 0 := Nat.succ.inj (hn.last hdue (Nat.le_of_not_lt hleft))
        rw [Nat.sub_eq_zero_of_le (Nat.le_of_not_lt hleft), Anim.afterEvents_zero]
        exact h.run_last_period (by omega) (htick.trans (animateIter_of_done (s := s.periodEnd) hdue (Nat.le_of_not_lt hleft)))
    · have hrest := hn.wait (Nat.lt_of_not_le hdue)
      have hperiod : s.period ≤ n * s.period := Nat.le_mul_of_pos_left _ hrest.pos
      have hend := htick.trans (animateIter_of_early (s := s.periodEnd) (Nat.lt_of_not_le hdue))
      rw [h.run_next_period hend (by omega), ← finishedAfter_nextRender]
      exact ih (h.nextRender s.fb s.an) hop hrest hlimit

/-- After its first event an animation is done at the poll of rule R265: each event has a poll, and the last interval is over. -/
theorem Anim.doneAtPoll_of_first_event (hp : 0 < p) (hidx : a.index = 1) (hlen : 1 ≤ a.length) (hwait : 0 < a.wait)
    (hnext : a.next = now + a.wait) : a.DoneAtPoll now p (max a.length ((a.length * a.wait + p - 1) / p)) := by
  refine ⟨fun m => ?_, by omega⟩
  have htotal : a.length * a.wait = (a.length - 1) * a.wait + a.wait := by
    rw [← Nat.succ_mul, Nat.succ_eq_add_one, Nat.sub_add_cancel hlen]
  rw [Nat.max_le, ceil_div_le_iff hp, hidx, hnext, htotal]
  omega

/-- Settles O50: `run_animation` from the first render on. -/
theorem animationRunsToItsEnd : Obligations.AnimationRunsToItsEnd := by
  intro s i kind e d p n h hready hin hcall hn hd hlimit hp hmax ht
  obtain ⟨hfault, hinert, -⟩ := id hready
  change p = s.period at hp
  subst hp
  obtain ⟨-, -, -, -, hlen, hwait, hidx, hnext⟩ := startAnimation_an s i kind e d
  rw [← hwait, ← hlen] at hmax
  have hsteps : 1 ≤ (s.startAnimation i kind e d).an.length := hlen.symm ▸ stepsOf_pos h.cfg_wf hn
  have hinterval : 0 < (s.startAnimation i kind e d).an.wait := hwait.symm ▸ Nat.div_pos hd (stepsOf_pos h.cfg_wf hn)
  have hdone : (s.startAnimation i kind e d).an.DoneAtPoll s.now s.period n :=
    hmax ▸ Anim.doneAtPoll_of_first_event (period_pos h.cfg_wf) hidx hsteps hinterval (hwait.symm ▸ hnext)
  have hstart : (s.startAnimation i kind e d).beginDwell.Renders := ⟨hin, rfl, nofun, rfl, rfl⟩
  have hperiod : s.period ≤ n * s.period := Nat.le_mul_of_pos_left _ hdone.pos
  have hdwell : dwell s.cfg s.brightness ≤ s.period := Nat.le_add_right ..
  have hexec := exec_animate_of_ready hready h.cfg_wf hcall hn hd hlimit (by simp only [timeLimit]; omega)
  have hrun := run_animation hstart rfl hdone ht
  refine ⟨_, _, hexec, hrun, ⟨hfault, hinert, rfl⟩, rfl, finishedAfter_dark _ _ _, rfl, rfl, ?_, rfl, lit_of_dark_rows rfl⟩
  obtain ⟨-, -, -, -, -, -, hindex, -⟩ := (s.startAnimation i kind e d).an.afterEvents_spec s.cfg
    ((s.startAnimation i kind e d).an.length - (s.startAnimation i kind e d).an.index)
  exact hindex.trans (by omega)

end Sys2Proof.Machine
end

section
/-! PROOFS. The operating conditions and how they are entered and left (rules R282 to R286, R298). A move has a command
accepted, is the reset, or keeps both flags (`Moved.condition_cases`); what enters and leaves a condition is read off these cases. -/

namespace Sys2Proof.Machine

variable {s t : State}

/-! One condition at a time, and the hold of a faulted block. -/

/-- Settles O14: an operation in progress excludes both flags, and the flags exclude each other. -/
theorem exactlyOneOperatingCondition : Obligations.ExactlyOneOperatingCondition := by
  intro s h
  by_cases hop : s.op = .none
  · cases hf : s.fault with
    | true =>
      have hi : s.inert = false := by simpa [hf] using h.not_both
      exact .inr (.inr (.inl (by simp [State.Ready, State.Faulted, hf, hop, hi])))
    | false =>
      cases hi : s.inert with
      | true => exact .inr (.inr (.inr (by simp [State.Ready, State.Inert, hf, hop, hi])))
      | false => exact .inl (by simp [State.Ready, hf, hop, hi])
  · obtain ⟨hf, hi⟩ := h.running_of_busy hop
    exact .inr (.inl (by simp [State.Ready, hf, hop, hi]))

/-- Settles O16: a faulted block is idle, so it holds as an inert one does. -/
theorem faultedBlockHoldsUntilReset : Obligations.FaultedBlockHoldsUntilReset :=
  fun _ _ h hfault hreset hs => (step_next hs).held (h.idle_iff.mp (h.fault_idle hfault)) (.inr hfault) hreset

/-! The flags, through the block's own steps. -/

/-- Neither `fault` nor `inert` changes. -/
abbrev SameFlags (s t : State) : Prop := t.fault = s.fault ∧ t.inert = s.inert

theorem SameFlags.ready (h : SameFlags s t) (hready : s.Ready) (hop : t.op = s.op ∨ t.op = .none) : t.Ready := by
  obtain ⟨hfault, hinert⟩ := h
  obtain ⟨hf, hi, hidle⟩ := hready
  exact ⟨hfault.trans hf, hinert.trans hi, hop.elim (·.trans hidle) id⟩

theorem renderBegin_flags (h : renderBegin s = .next t) : SameFlags s t ∧ t.op = s.op := by
  obtain ⟨-, rfl⟩ := renderBegin_next.mp h
  exact ⟨⟨rfl, rfl⟩, rfl⟩

theorem animateIter_flags (h : animateIter s = .next t) : SameFlags s t ∧ (t.op = s.op ∨ t.op = .none) := by
  obtain ⟨-, hr⟩ | ⟨-, -, hr⟩ | ⟨-, -, rfl⟩ := animateIter_next h
  · exact (renderBegin_flags hr).imp_right .inl
  · exact (renderBegin_flags hr :).imp_right .inl
  · exact ⟨⟨rfl, rfl⟩, .inr rfl⟩

theorem tickEnd_flags (h : tickEnd s = .next t) : SameFlags s t ∧ (t.op = s.op ∨ t.op = .none) := by
  obtain ⟨-, rfl⟩ | ⟨-, -, -, rfl⟩ | ⟨-, -, -, hr⟩ | ⟨-, -, hi⟩ := tickEnd_next h
  · exact ⟨⟨rfl, rfl⟩, .inr rfl⟩
  · exact ⟨⟨rfl, rfl⟩, .inr rfl⟩
  · exact (renderBegin_flags hr).imp_right .inl
  · exact animateIter_flags hi

theorem dwellEnd_flags (h : dwellEnd s = .next t) : SameFlags s t ∧ (t.op = s.op ∨ (t.op = .none ∧ s.op = .render)) := by
  obtain ⟨hop, rfl⟩ | ⟨-, -, rfl⟩ := dwellEnd_next h
  · exact ⟨⟨rfl, rfl⟩, .inr ⟨rfl, hop⟩⟩
  · exact ⟨⟨rfl, rfl⟩, .inl rfl⟩

/-- The end of a render or of a tick wait is due (rules R262, R263): the two ways of rule R298's table from BUSY to READY. -/
def State.EndDue (s : State) : Prop :=
  (s.op = .render ∧ s.tWaitEnd ≤ s.now) ∨ (s.phase = .tick ∧ (s.abortReq = true ∨ s.tWaitEnd ≤ s.now))

theorem blockStep_flags (h : blockStep s = .next t) : SameFlags s t ∧ (t.op = s.op ∨ (t.op = .none ∧ s.EndDue)) := by
  obtain ⟨-, hdue, hd⟩ | ⟨hp, hdue, ht⟩ | ⟨-, rfl⟩ := blockStep_next h
  · exact (dwellEnd_flags hd).imp_right (Or.imp_right fun ⟨hover, hop⟩ => ⟨hover, .inl ⟨hop, hdue⟩⟩)
  · exact (tickEnd_flags ht).imp_right (Or.imp_right fun hover => ⟨hover, .inr ⟨hp, hdue⟩⟩)
  · exact ⟨⟨rfl, rfl⟩, .inl rfl⟩

/-! Accepted commands. -/

/-- The command is ON or OFF of pixel (x, y), and its frame primitive faults with cause `c` (rules R214, R216). -/
def PixelFault (f : Frame) (i : Instr) (x y : Nat) (c : RangeFault) : Prop :=
  (i = .on x y ∧ Frame.setPixel f x y = .error c) ∨ (i = .off x y ∧ Frame.clearPixel f x y = .error c)

/-- What an accepted command does to the operating conditions (rule R298): RENDER, DISPLAY and the animate commands may leave the block
busy, ON and OFF may fault, RELEASE makes it inert, and nothing else starts an operation or sets a flag. -/
theorem Ran.condition_cases {i : Instr} (h : Ran s i t) :
    (SameFlags s t ∧ (t.op = s.op ∨ t.op = .none)) ∨
    (SameFlags s t ∧ t.Busy ∧ (i = .render ∨ i = .display ∨ ∃ k e d, Animates s i k e d)) ∨
    (∃ x y c, PixelFault s.fb i x y c ∧ t = s.raiseFault c) ∨
    (t.Inert ∧ t.fault = s.fault ∧ i = .release) := by
  cases h with
  | render hr =>
    obtain ⟨hflags, hop⟩ := renderBegin_flags hr
    exact .inr (.inl ⟨hflags, hop.trans_ne nofun, .inl rfl⟩)
  | display _ hr =>
    obtain ⟨hflags, hop⟩ := renderBegin_flags hr
    exact .inr (.inl ⟨hflags, hop.trans_ne nofun, .inr (.inl rfl)⟩)
  | animates hi ha =>
    obtain ⟨-, rfl⟩ | ⟨a, -, hiter⟩ := startAnimate_next ha
    · exact .inl ⟨⟨rfl, rfl⟩, .inl rfl⟩
    · obtain ⟨hflags, hop | hop⟩ := animateIter_flags hiter
      · exact .inr (.inl ⟨hflags, hop.trans_ne nofun, .inr (.inr ⟨_, _, _, hi⟩)⟩)
      · exact .inl ⟨hflags, .inr hop⟩
  | onFault hc => exact .inr (.inr (.inl ⟨_, _, _, .inl ⟨rfl, hc⟩, rfl⟩))
  | offFault hc => exact .inr (.inr (.inl ⟨_, _, _, .inr ⟨rfl, hc⟩, rfl⟩))
  | release => exact .inr (.inr (.inr ⟨rfl, rfl, rfl⟩))
  | _ => exact .inl ⟨⟨rfl, rfl⟩, .inl rfl⟩

theorem Ran.abort_op (h : Ran s .abort t) : t.op = s.op := by
  cases h with
  | abort => rfl
  | animates hi _ => exact absurd rfl hi.ne_abort

theorem running_of_gate_eq_none {i : Instr} (hg : s.gate i = none) : s.fault = false ∧ s.inert = false := by
  by_cases hi : i = .abort
  · subst hi
    obtain ⟨hfault, hinert, -⟩ := gate_abort_eq_none_iff.mp hg
    exact ⟨hfault, hinert⟩
  · obtain ⟨hfault, hinert, -⟩ := (gate_eq_none_iff hi).mp hg
    exact ⟨hfault, hinert⟩

/-- ABORT is the one command a busy block accepts (rule R96). -/
theorem eq_abort_of_busy {i : Instr} (hb : s.Busy) (hg : s.gate i = none) : i = .abort := by
  by_contra hi
  obtain ⟨-, -, hidle⟩ := (gate_eq_none_iff hi).mp hg
  exact hb hidle

/-- The animate commands are those the statements name by their call of `StartAnimate` (rules R246 to R252). -/
theorem Animates.call_isSome {i : Instr} {k : Kind} {e : Effect} {d : Nat} (h : Animates t i k e d) (s : State) :
    (animateCall s i).isSome := by
  cases h <;> rfl

/-! Moves. -/

/-- The host's write of this word has the command it stands for accepted, and the command runs to `t` (rule R96). -/
structure Accepts (s : State) (w : Word) (i : Instr) (rest : List Input) (t : State) : Prop where
  head : s.inputs = .write 0x000 w :: rest
  decoded : decodeWord w = .ok i
  gate : s.gate i = none
  ran : Ran (({ s with inputs := rest } : State).acceptCmd i) i t

/-- Only CMD does more than update an operand or the rejection record, and only by accepting a command (rules R41 to R49, R96). -/
theorem regWrite_flags {off : Nat} {v : Word} {rest : List Input} (hin : s.inputs = .write off v :: rest)
    (h : regWrite off v { s with inputs := rest } = .next t) :
    (∃ i, Accepts s v i rest t) ∨ (SameFlags s t ∧ t.op = s.op) := by
  obtain ⟨rfl, hw⟩ | ⟨-, rfl⟩ | ⟨-, rfl⟩ | ⟨-, rfl⟩ | ⟨-, rfl⟩ | ⟨-, rfl⟩ | rfl := regWrite_next h
  · obtain ⟨i, hi, he⟩ | ⟨_, c, -, rfl⟩ := writeCmd_next hw
    · obtain ⟨c, -, rfl⟩ | ⟨hg, hr⟩ := exec_next he
      · exact .inr ⟨⟨rfl, rfl⟩, rfl⟩
      · exact .inl ⟨i, hin, hi, hg, hr⟩
    · exact .inr ⟨⟨rfl, rfl⟩, rfl⟩
  · exact .inr ⟨⟨writeStatus_fault _ v, writeStatus_inert _ v⟩, writeStatus_op _ v⟩
  all_goals exact .inr ⟨⟨rfl, rfl⟩, rfl⟩

/-- What one move does to the operating conditions: a command is accepted, the block is reset, or both flags stay and at most the operation
in progress ends. -/
theorem Moved.condition_cases (h : Moved s t) :
    (∃ w i rest, Accepts s w i rest t) ∨
    (s.inputs.head? = some .reset ∧ t.Ready) ∨
    (SameFlags s t ∧ (t.op = s.op ∨ (t.op = .none ∧ s.EndDue))) := by
  cases h with
  | block l r _ hb => exact .inr (.inr (blockStep_flags hb :))
  | time l r n _ _ _ ht => subst ht; exact .inr (.inr ⟨⟨rfl, rfl⟩, .inl rfl⟩)
  | quiet l r _ ht => subst ht; exact .inr (.inr ⟨⟨rfl, rfl⟩, .inl rfl⟩)
  | source a v rest _ ht => subst ht; exact .inr (.inr ⟨⟨rfl, rfl⟩, .inl rfl⟩)
  | reset rest hin ht => subst ht; exact .inr (.inl ⟨by rw [hin]; rfl, rfl, rfl, rfl⟩)
  | write off v rest hin _ _ hw =>
    obtain ⟨i, hacc⟩ | ⟨hflags, hop⟩ := regWrite_flags hin hw
    · exact .inl ⟨v, i, rest, hacc⟩
    · exact .inr (.inr ⟨hflags, .inl hop⟩)

/-- READY is left by an accepted command only (rule R298). -/
theorem Moved.accepts_of_leaves_ready (h : Moved s t) (hready : s.Ready) (hleft : ¬t.Ready) : ∃ w i rest, Accepts s w i rest t := by
  obtain hacc | ⟨-, ht⟩ | ⟨hflags, hop⟩ := h.condition_cases
  · exact hacc
  · exact absurd ht hleft
  · exact absurd (hflags.ready hready (hop.imp_right And.left)) hleft

/-- BUSY is left by reset, or by the end of a render or of a tick wait (rule R298). -/
theorem Moved.end_of_leaves_busy (h : Moved s t) (hb : s.Busy) (hleft : ¬t.Busy) :
    (s.inputs.head? = some .reset ∧ t.Ready) ∨ (SameFlags s t ∧ s.EndDue) := by
  obtain ⟨w, i, rest, hacc⟩ | hreset | ⟨hflags, hop | ⟨-, hdue⟩⟩ := h.condition_cases
  · obtain rfl := eq_abort_of_busy hb hacc.gate
    exact absurd (hacc.ran.abort_op.trans_ne hb) hleft
  · exact .inl hreset
  · exact absurd (hop.trans_ne hb) hleft
  · exact .inr ⟨hflags, hdue⟩

/-- A stopped block accepts nothing, so only reset clears its flag (rules R285, R298). -/
theorem Moved.reset_of_leaves_stop (h : Moved s t) (hstop : s.fault = true ∨ s.inert = true) (hleft : ¬SameFlags s t) :
    t.Ready ∧ s.inputs.head? = some .reset := by
  obtain ⟨w, i, rest, hacc⟩ | ⟨hreset, ht⟩ | ⟨hflags, -⟩ := h.condition_cases
  · obtain ⟨hf, hi⟩ := running_of_gate_eq_none hacc.gate
    simp [hf, hi] at hstop
  · exact ⟨ht, hreset⟩
  · exact absurd hflags hleft

/-- Settles O15: each condition's way out is one of the three lemmas above. -/
theorem conditionsChangeOnlyAsTabled : Obligations.ConditionsChangeOnlyAsTabled := by
  intro s t h hs
  have hmove := step_next hs
  refine ⟨fun hready hleft => ?_, fun hb hleft => ?_, fun hf hleft => ?_, fun hi hleft => ?_⟩
  · obtain ⟨w, i, rest, hacc⟩ := hmove.accepts_of_leaves_ready hready hleft
    refine ⟨w, i, by rw [hacc.head]; rfl, hacc.decoded, ?_⟩
    obtain ⟨hflags, hop⟩ | ⟨-, hbusy, hi⟩ | ⟨x, y, c, hpix, rfl⟩ | ⟨hinert, -, hi⟩ := hacc.ran.condition_cases
    · exact absurd (SameFlags.ready (s := s) hflags hready hop) hleft
    · exact .inl ⟨hbusy, hi.imp_right (Or.imp_right fun ⟨_, _, _, ha⟩ => ha.call_isSome s)⟩
    · exact .inr (.inl ⟨rfl, hpix.imp (fun ⟨hon, _⟩ => ⟨x, y, hon⟩) (fun ⟨hoff, _⟩ => ⟨x, y, hoff⟩)⟩)
    · exact .inr (.inr ⟨hinert, hi⟩)
  · obtain ⟨hreset, ht⟩ | ⟨⟨hfault, hinert⟩, hdue⟩ := hmove.end_of_leaves_busy hb hleft
    · exact ⟨ht, .inl hreset⟩
    · obtain ⟨hf, hi⟩ := h.running_of_busy hb
      exact ⟨⟨hfault.trans hf, hinert.trans hi, not_not.mp hleft⟩, .inr hdue⟩
  · exact hmove.reset_of_leaves_stop (.inl hf) fun ⟨hsame, _⟩ => hleft (hsame.trans hf)
  · exact hmove.reset_of_leaves_stop (.inr hi) fun ⟨_, hsame⟩ => hleft (hsame.trans hi)

/-! Fault entry. -/

/-- A pixel command faults on `y` first, then on `x` (rules R142, R143). -/
theorem PixelFault.out_of_range {f : Frame} {w h x y : Nat} {i : Instr} {c : RangeFault} (hp : PixelFault f i x y c)
    (hs : Frame.HasShape f w h) : (h ≤ y ∧ c = .yRange) ∨ (y < h ∧ w ≤ x ∧ c = .xRange) := by
  obtain ⟨hyRange, hxRange, hinside⟩ := framePrimitivesCheckYThenX f w h x y hs
  have herr : Frame.setPixel f x y = .error c ∨ Frame.clearPixel f x y = .error c := hp.imp And.right And.right
  obtain hy | hy := Nat.lt_or_ge y h
  · obtain hx | hx := Nat.lt_or_ge x w
    · obtain ⟨⟨f₁, hset⟩, ⟨f₂, hclear⟩, -⟩ := hinside hy hx
      simp [hset, hclear] at herr
    · obtain ⟨hset, hclear, -⟩ := hxRange hy hx
      simp only [hset, hclear, or_self, Except.error.injEq] at herr
      exact .inr ⟨hy, hx, herr.symm⟩
  · obtain ⟨hset, hclear, -⟩ := hyRange hy
    simp only [hset, hclear, or_self, Except.error.injEq] at herr
    exact .inl ⟨hy, herr.symm⟩

theorem PixelFault.ne_abort {f : Frame} {x y : Nat} {i : Instr} {c : RangeFault} (h : PixelFault f i x y c) : i ≠ .abort := by
  obtain ⟨rfl, -⟩ | ⟨rfl, -⟩ := h <;> nofun

/-- Fault entry, whichever move takes it: a pixel command was accepted and its primitive faulted (rules R282, R284). -/
theorem Moved.pixelFault_of_fault_entry (h : Moved s t) (hf : s.fault = false) (ht : t.fault = true) :
    ∃ w i rest x y c, Accepts s w i rest t ∧ PixelFault s.fb i x y c ∧
      t = (({ s with inputs := rest } : State).acceptCmd i).raiseFault c := by
  have hset : t.fault ≠ s.fault := by simp [hf, ht]
  obtain ⟨w, i, rest, hacc⟩ | ⟨-, hready, -⟩ | ⟨⟨hsame, -⟩, -⟩ := h.condition_cases
  · obtain ⟨⟨hsame, -⟩, -⟩ | ⟨⟨hsame, -⟩, -⟩ | ⟨x, y, c, hpix, rfl⟩ | ⟨-, hsame, -⟩ := hacc.ran.condition_cases
    · exact absurd hsame hset
    · exact absurd hsame hset
    · exact ⟨w, i, rest, x, y, c, hacc, hpix, rfl⟩
    · exact absurd hsame hset
  · exact absurd (ht.symm.trans hready) nofun
  · exact absurd hsame hset

/-- Settles O18: the cause recorded is that of the frame primitive. -/
theorem onlyPixelCommandsFault : Obligations.OnlyPixelCommandsFault := by
  intro s t h hs hf ht
  obtain ⟨w, i, rest, x, y, c, hacc, hpix, rfl⟩ := (step_next hs).pixelFault_of_fault_entry hf ht
  have hword : decodeWord w = .ok (.on x y) ∨ decodeWord w = .ok (.off x y) := by
    obtain ⟨rfl, -⟩ | ⟨rfl, -⟩ := hpix
    · exact .inl hacc.decoded
    · exact .inr hacc.decoded
  refine ⟨w, x, y, by rw [hacc.head]; rfl, hword, ?_⟩
  obtain ⟨hy, rfl⟩ | ⟨hy, hx, rfl⟩ := hpix.out_of_range h.fb_shape
  · exact .inl ⟨hy, rfl⟩
  · exact .inr ⟨hy, hx, rfl⟩

/-- Settles O29: a pixel command is accepted in READY only, and CMD_LAST holds the encoding of what was decoded. -/
theorem faultEntryIsPrecise : Obligations.FaultEntryIsPrecise := by
  intro s t _ hs hf ht
  obtain ⟨w, i, rest, x, y, c, hacc, hpix, rfl⟩ := (step_next hs).pixelFault_of_fault_entry hf ht
  obtain ⟨-, rfl⟩ := encodeOfDecodeIsIdentity w i hacc.decoded
  have hready : s.Ready := (gate_eq_none_iff hpix.ne_abort).mp hacc.gate
  exact ⟨hready, by rw [hacc.head]; rfl, nofun, rfl, by rw [hacc.head]; rfl⟩

/-! TooFast. -/

/-- Construction answers `TooFast` in every configuration, well-formed or not, on an empty source or a short duration (rule R186). -/
theorem animNew_tooFast {c : Config} {n : Word} {e : Effect} {d : Nat} (now : Nat) (kind : Kind) (base : Word)
    (h : n.toNat = 0 ∨ d < stepsOf c e n.toNat) : animNew c now kind base n e d = .tooFast := by
  rw [stepsOf_eq_animLength] at h
  have hquot : d / animLength c e n.toNat = 0 := by
    obtain hn | hd := h
    · have hlen : animLength c e n.toNat = 0 := by cases e <;> simp [animLength, hn]
      rw [hlen, Nat.div_zero]
    · exact Nat.div_eq_of_lt hd
  simp [animNew, hquot]

/-- Settles O42: construction answers before it writes a register. -/
theorem tooFastChangesNothingElse : Obligations.TooFastChangesNothingElse := by
  intro s i kind e d hready hcall hfast
  have hcmd := animates_of_call hcall
  calc exec i s
    _ = startAnimate kind e d (s.acceptCmd i) := (exec_of_ready hcmd.ne_abort hready).trans (commandBody_of_animates hcmd)
    _ = .next { s with cmdLast := encode i, result := .tooFast } := by
      have hnew : animNew s.cfg s.now kind s.srcBase s.srcLen e d = .tooFast := animNew_tooFast s.now kind s.srcBase hfast
      simp [startAnimate, hnew, State.acceptCmd]

end Sys2Proof.Machine
end

section
/-! PROOFS. A time sum that reaches `2^64` (U9): the commands that compute one are refused before any state is left. -/

namespace Sys2Proof.Machine

variable {s : State} {i : Instr} {kind : Kind} {e : Effect} {d : Nat}

theorem renderBegin_of_overflow (h : timeLimit ≤ s.now + dwell s.cfg s.brightness) : renderBegin s = .refused .timeOverflow :=
  if_pos h

theorem exec_render_of_overflow (hready : s.Ready) (h : timeLimit ≤ s.now + dwell s.cfg s.brightness) :
    exec .render s = .refused .timeOverflow :=
  (exec_of_ready (i := .render) nofun hready).trans (renderBegin_of_overflow (s := s.startRender) h)

theorem exec_display_of_overflow (hready : s.Ready) (h : timeLimit ≤ s.now + s.duration) :
    exec .display s = .refused .timeOverflow :=
  (exec_of_ready (i := .display) nofun hready).trans (if_pos h)

/-- A timely construction overflows in every configuration, well-formed or not, when its end reaches `2^64` (rule R186). -/
theorem animNew_overflow {c : Config} {now : Nat} {n : Word} (kind : Kind) (base : Word) (hsteps : stepsOf c e n.toNat ≠ 0)
    (hd : stepsOf c e n.toNat ≤ d) (h : timeLimit ≤ now + d) : animNew c now kind base n e d = .overflow := by
  rw [stepsOf_eq_animLength] at hsteps hd
  have hwait : d / animLength c e n.toNat ≠ 0 := Nat.div_ne_zero_iff.mpr ⟨hsteps, hd⟩
  simp [animNew, hsteps, hwait, h]

theorem exec_animate_of_overflow (hready : s.Ready) (hcall : animateCall s i = some (kind, e, d))
    (hsteps : stepsOf s.cfg e s.srcLen.toNat ≠ 0) (hd : stepsOf s.cfg e s.srcLen.toNat ≤ d) (h : timeLimit ≤ s.now + d) :
    exec i s = .refused .timeOverflow := by
  have hcmd := animates_of_call hcall
  calc exec i s
    _ = startAnimate kind e d (s.acceptCmd i) := (exec_of_ready hcmd.ne_abort hready).trans (commandBody_of_animates hcmd)
    _ = .refused .timeOverflow := by
      have hnew : animNew s.cfg s.now kind s.srcBase s.srcLen e d = .overflow := animNew_overflow kind s.srcBase hsteps hd h
      simp [startAnimate, hnew, State.acceptCmd]

/-- Settles O44: RENDER's sum is tested by its render, DISPLAY's before its own, an animate command's by the construction. -/
theorem timeOverflowIsRefused : Obligations.TimeOverflowIsRefused := by
  intro s hready
  refine ⟨exec_render_of_overflow hready, fun h => ?_, fun i kind e d => exec_animate_of_overflow hready⟩
  rw [← s.duration_eq] at h
  exact exec_display_of_overflow hready h

end Sys2Proof.Machine
end
